-- ==== Sys2Proof/Word.lean ====
section
/-!
DEFINITION. The word types of PPB (spec 00_scope R8): a byte, a 6-bit sensor register address
(20_memory R70) and the 20-bit host command word (30_encoding R100).
-/

namespace Sys2Proof

/-- A byte, bits numbered 7 down to 0 (R8). -/
abbrev Byte := BitVec 8

/-- A sensor register address: 6 bits, 0x00 to 0x3F (R70). -/
abbrev RegAddr := BitVec 6

/-- A nibble, the unit of one data line write in nibble mode (R78). -/
abbrev Nibble := BitVec 4

/-- The host command word `op || a || b` (R100). -/
abbrev HostWord := BitVec 20

end Sys2Proof
end

