-- ==== Sys2Proof/Syntax.lean ====
section
/-!
DEFINITION. The syntax: one constructor of `Instr` for each of the 30 rows of spec/opcode_table.json
(30_encoding R122), in the table's order, and `Encoded`, a word of the table with its layer.
-/

namespace Sys2Proof

/-- The second field of a DisplayByte (R110). -/
inductive Target where
  | command
  | data
deriving DecidableEq, Repr, Inhabited

/-- One row each. Numbers that the spec range-checks (address, count, row, col, slot) are naturals: the
abstract operation, "mnemonic plus operands as numbers", is the normative object (R100); what an
operand field holds beyond them is bits. -/
inductive Instr where
  /-- WRREG address, byte (R140). -/
  | wrreg (address : Nat) (byte : Byte)
  /-- RDREG address, count (R143). -/
  | rdreg (address count : Nat)
  /-- IDCHECK (R160). -/
  | idcheck
  /-- ACTIVATE (R163). -/
  | activate
  /-- SAMPLE (R166). -/
  | sample
  /-- SETUP nibbleMode (R188). -/
  | setup (nibbleMode : Bool)
  /-- WRBYTE byte, target (R193). -/
  | wrbyte (byte : Byte) (target : Target)
  /-- MOVECUR row, col (R210). -/
  | movecur (row col : Nat)
  /-- WRSTR (R213). -/
  | wrstr
  /-- LDGLYPH slot (R216). -/
  | ldglyph (slot : Nat)
  /-- SHOWCUR (R219). -/
  | showcur
  /-- HIDECUR (R220). -/
  | hidecur
  /-- Reserved operation code 0x0 (R103). -/
  | reserved0
  /-- Reserved operation code 0x6 (R103). -/
  | reserved6
  /-- Reserved operation code 0x7 (R103). -/
  | reserved7
  /-- Reserved operation code 0xF (R103). -/
  | reservedF
  /-- Bus header 00aaaaaa: the write frame (R107). -/
  | hdrWrite (addr : RegAddr)
  /-- Bus header 10aaaaaa: the single-byte read frame (R108). -/
  | hdrRead1 (addr : RegAddr)
  /-- Bus header 11aaaaaa: the multi-byte read frame (R108). -/
  | hdrReadN (addr : RegAddr)
  /-- Bus header 01aaaaaa: reserved, never emitted (R109). -/
  | hdrReserved (addr : RegAddr)
  /-- Display command 0x01 (R111). -/
  | cmdClear
  /-- Display command 0x02 (R111). -/
  | cmdHome
  /-- Display command 0x06 (R111). -/
  | cmdEntry
  /-- Display command 0x0C (R111, R220). -/
  | cmdDispOff
  /-- Display command 0x0F (R111, R219). -/
  | cmdDispOn
  /-- Display command 0x28 (R111). -/
  | cmdInit4
  /-- Display command 0x38 (R111). -/
  | cmdInit8
  /-- Display command 01sss000 (R113). -/
  | cmdSetGlyphAddr (slot : BitVec 3)
  /-- Display command 1ccccccc (R112). -/
  | cmdSetCursor (position : BitVec 7)
  /-- A display byte with target Data (R183). -/
  | dataByte (value : Byte)
deriving DecidableEq, Repr, Inhabited

/-- A word of the opcode table with the layer it belongs to (the table's `format`, R122): the same
eight bits mean different things on the bus, as a display command and as display data. -/
inductive Encoded where
  /-- HOSTCMD. -/
  | host (w : HostWord)
  /-- RBC_HDR. -/
  | bus (b : Byte)
  /-- PDD_CMD: register-select at the Command level. -/
  | command (b : Byte)
  /-- PDD_DATA: register-select at the Data level. -/
  | data (b : Byte)
deriving DecidableEq, Repr, Inhabited

end Sys2Proof
end

