-- ==== Sys2Proof/WellFormed.lean ====
section
/-!
DEFINITION. Which instructions have an encoding: an operand the host command word carries in eight bits
is at most 0xFF (spec 30_encoding R100, R102). Range checks the OPERATIONS make are not here: an
out-of-range operand "can be presented" (R102) and is answered by an error.
-/

namespace Sys2Proof

/-- The operand fits the eight bits of field a or b of the host command word (R100). -/
def Instr.fitsField (n : Nat) : Bool := decide (n ≤ 0xFF)

/-- The instruction can be written as a word of its layer. -/
def Instr.wellFormed : Instr → Bool
  | .wrreg address _ => Instr.fitsField address
  | .rdreg address count => Instr.fitsField address && Instr.fitsField count
  | .idcheck => true
  | .activate => true
  | .sample => true
  | .setup _ => true
  | .wrbyte _ _ => true
  | .movecur row col => Instr.fitsField row && Instr.fitsField col
  | .wrstr => true
  | .ldglyph slot => Instr.fitsField slot
  | .showcur => true
  | .hidecur => true
  | .reserved0 => true
  | .reserved6 => true
  | .reserved7 => true
  | .reservedF => true
  | .hdrWrite _ => true
  | .hdrRead1 _ => true
  | .hdrReadN _ => true
  | .hdrReserved _ => true
  | .cmdClear => true
  | .cmdHome => true
  | .cmdEntry => true
  | .cmdDispOff => true
  | .cmdDispOn => true
  | .cmdInit4 => true
  | .cmdInit8 => true
  | .cmdSetGlyphAddr _ => true
  | .cmdSetCursor _ => true
  | .dataByte _ => true

end Sys2Proof
end

