-- ==== Sys2Proof/Decode.lean ====
section
/-!
DEFINITION. The decoder of the three layers of spec/opcode_table.json, total on every word and rejecting
by name, and after it the encoder (30_encoding R100 to R102, R105 to R113).
-/

namespace Sys2Proof

/-- Why a word has no instruction. -/
inductive DecodeError where
  /-- A display command byte that no row of the table lists. The host may still send it through WRBYTE
  (R116); only the internal layer cannot name it. -/
  | commandNotInTable (b : Byte)
deriving DecidableEq, Repr

/-- Field op of the host command word, bits 19 to 16 (R100). -/
def hostOp (w : HostWord) : BitVec 4 := w.extractLsb' 16 4

/-- Field a of the host command word, bits 15 to 8 (R100). -/
def hostA (w : HostWord) : Byte := w.extractLsb' 8 8

/-- Field b of the host command word, bits 7 to 0 (R100). -/
def hostB (w : HostWord) : Byte := w.extractLsb' 0 8

/-- Field b[0] of WRBYTE: 0 Command, 1 Data (R101). -/
def targetOfBit (data : Bool) : Target := if data then .data else .command

/-- The host command word: every word decodes, reserved codes included (R101, R103); bits marked
"ignored" are not looked at (R102). The last arm is code 0xF, the only 4-bit code left. -/
def decodeHost (w : HostWord) : Instr :=
  match (hostOp w).toNat with
  | 0x0 => .reserved0
  | 0x1 => .wrreg (hostA w).toNat (hostB w)
  | 0x2 => .rdreg (hostA w).toNat (hostB w).toNat
  | 0x3 => .idcheck
  | 0x4 => .activate
  | 0x5 => .sample
  | 0x6 => .reserved6
  | 0x7 => .reserved7
  | 0x8 => .setup ((hostA w).getLsbD 0)
  | 0x9 => .wrbyte (hostA w) (targetOfBit ((hostB w).getLsbD 0))
  | 0xA => .movecur (hostA w).toNat (hostB w).toNat
  | 0xB => .wrstr
  | 0xC => .ldglyph (hostA w).toNat
  | 0xD => .showcur
  | 0xE => .hidecur
  | _ => .reservedF

/-- The bus header byte: bit 7 RW, bit 6 MB, bits 5 to 0 ADDR (R105, R109). -/
def decodeHeader (b : Byte) : Instr :=
  let addr : RegAddr := b.extractLsb' 0 6
  match b.getLsbD 7, b.getLsbD 6 with
  | false, false => .hdrWrite addr
  | true, false => .hdrRead1 addr
  | true, true => .hdrReadN addr
  | false, true => .hdrReserved addr

/-- A display command byte of the table (R111 to R113). -/
def decodeCommand (b : Byte) : Except DecodeError Instr :=
  if b = 0x01 then .ok .cmdClear
  else if b = 0x02 then .ok .cmdHome
  else if b = 0x06 then .ok .cmdEntry
  else if b = 0x0C then .ok .cmdDispOff
  else if b = 0x0F then .ok .cmdDispOn
  else if b = 0x28 then .ok .cmdInit4
  else if b = 0x38 then .ok .cmdInit8
  else if b &&& 0xC7 = 0x40 then .ok (.cmdSetGlyphAddr (b.extractLsb' 3 3))
  else if b &&& 0x80 = 0x80 then .ok (.cmdSetCursor (b.extractLsb' 0 7))
  else .error (.commandNotInTable b)

/-- The decoder: a word of a layer to its instruction. -/
def decode : Encoded → Except DecodeError Instr
  | .host w => .ok (decodeHost w)
  | .bus b => .ok (decodeHeader b)
  | .command b => decodeCommand b
  | .data b => .ok (.dataByte b)

/-- Assembly of a host command word (R100). -/
def hostWord (op : BitVec 4) (a b : Byte) : HostWord := op ++ a ++ b

/-- Assembly of a header byte, `RW || MB || ADDR` (R105). -/
def headerWord (rw mb : Bool) (addr : RegAddr) : Byte := (BitVec.ofBool rw ++ BitVec.ofBool mb) ++ addr

/-- The encoder, from the same tables; ignored bits are written 0 (R102). -/
def encode : Instr → Encoded
  | .wrreg address byte => .host (hostWord 0x1 (BitVec.ofNat 8 address) byte)
  | .rdreg address count => .host (hostWord 0x2 (BitVec.ofNat 8 address) (BitVec.ofNat 8 count))
  | .idcheck => .host (hostWord 0x3 0 0)
  | .activate => .host (hostWord 0x4 0 0)
  | .sample => .host (hostWord 0x5 0 0)
  | .setup nibbleMode => .host (hostWord 0x8 (if nibbleMode then 1 else 0) 0)
  | .wrbyte byte target => .host (hostWord 0x9 byte (if target = .data then 1 else 0))
  | .movecur row col => .host (hostWord 0xA (BitVec.ofNat 8 row) (BitVec.ofNat 8 col))
  | .wrstr => .host (hostWord 0xB 0 0)
  | .ldglyph slot => .host (hostWord 0xC (BitVec.ofNat 8 slot) 0)
  | .showcur => .host (hostWord 0xD 0 0)
  | .hidecur => .host (hostWord 0xE 0 0)
  | .reserved0 => .host (hostWord 0x0 0 0)
  | .reserved6 => .host (hostWord 0x6 0 0)
  | .reserved7 => .host (hostWord 0x7 0 0)
  | .reservedF => .host (hostWord 0xF 0 0)
  | .hdrWrite addr => .bus (headerWord false false addr)
  | .hdrRead1 addr => .bus (headerWord true false addr)
  | .hdrReadN addr => .bus (headerWord true true addr)
  | .hdrReserved addr => .bus (headerWord false true addr)
  | .cmdClear => .command 0x01
  | .cmdHome => .command 0x02
  | .cmdEntry => .command 0x06
  | .cmdDispOff => .command 0x0C
  | .cmdDispOn => .command 0x0F
  | .cmdInit4 => .command 0x28
  | .cmdInit8 => .command 0x38
  | .cmdSetGlyphAddr slot => .command (((0b01 : BitVec 2) ++ slot) ++ (0b000 : BitVec 3))
  | .cmdSetCursor position => .command ((0b1 : BitVec 1) ++ position)
  | .dataByte value => .data value

/-- The layer of a byte of the table that comes with no layer: the 8-bit rows overlap, so the row with
the most fixed bits wins, as the masks of the table rank them: a listed command (mask 0xFF), the glyph
address (0xC7), the headers (0xC0). DESIGN CHOICE, log 7. -/
def tableByte (b : Byte) : Encoded :=
  match decodeCommand b with
  | .ok (.cmdSetCursor _) => .bus b
  | .error _ => .bus b
  | .ok _ => .command b

/-- A table word of `nbits` bits with its layer: up to 8 bits a byte of an 8-bit row, else a host
command word, whose bits above 19 must be 0. -/
def tableWord (nbits w : Nat) : Option Encoded :=
  if nbits ≤ 8 then
    if w < 2 ^ 8 then some (tableByte (BitVec.ofNat 8 w)) else none
  else
    if w < 2 ^ 20 then some (.host (BitVec.ofNat 20 w)) else none

/-- What the decoder reads from a table word. -/
def decodeTableWord (nbits w : Nat) : Option Instr :=
  match tableWord nbits w with
  | none => none
  | some e => (decode e).toOption

end Sys2Proof
end

