-- ==== Sys2Proof/Machine/Constants.lean ====
section
/-!
DEFINITION. The constants the source fixes (spec 00_scope R6), under the spec's names.
-/

namespace Sys2Proof.Machine

/-- HDR_READ: header bit 7 set. -/
def hdrReadFlag : Byte := 0x80

/-- HDR_WRITE: header bit 7 clear. -/
def hdrWriteFlag : Byte := 0x00

/-- HDR_MB: header bit 6, the multi-byte flag. -/
def hdrMultiByte : Byte := 0x40

/-- The largest address six header bits hold (ADDR_BITS = 6, R70). -/
def maxRegAddr : Nat := 0x3F

/-- SAMPLE_LEN: bytes of the data register burst. -/
def sampleLen : Nat := 6

/-- CMD_CLEAR, clear-display, slow. -/
def cmdClearByte : Byte := 0x01

/-- CMD_HOME, home / return-home / home-reset, slow. -/
def cmdHomeByte : Byte := 0x02

/-- CMD_ENTRY, auto-increment-right. -/
def cmdEntryByte : Byte := 0x06

/-- CMD_DISP_OFF, the source's display-off; HIDECUR sends it (R220, R221). -/
def cmdDispOffByte : Byte := 0x0C

/-- CMD_DISP_ON, the source's display-on; SETUP and SHOWCUR send it (R188, R219). -/
def cmdDispOnByte : Byte := 0x0F

/-- CMD_INIT4, "4-line interface" init. -/
def cmdInit4Byte : Byte := 0x28

/-- CMD_INIT8, "8-line interface" init. -/
def cmdInit8Byte : Byte := 0x38

/-- CMD_GLYPH_BASE, set glyph memory address of slot 0. -/
def cmdGlyphBase : Byte := 0x40

/-- ROW_BASE[0..3]: looked up per row, no linear formula (R112). -/
def rowBases : List Byte := [0x80, 0xC0, 0x94, 0xD4]

/-- GLYPH_SLOTS. -/
def glyphSlots : Nat := 8

/-- GLYPH_H: bytes per glyph. -/
def glyphHeight : Nat := 8

/-- LINES: eight data/nibble lines, register-select, enable. -/
def displayLineCount : Nat := 10

/-- F_SCLK_REF in hertz: 1 MHz, the serial clock rate "in the reference configuration" (R6). No event depends
on it (70_reset R301). -/
def sclkRefHz : Nat := 1000000

end Sys2Proof.Machine
end

