-- ==== Sys2Proof/Config.lean ====
section
/-!
DEFINITION. What an implementation of PPB fixes (spec 00_scope R7) and the free values of the model.
The parameters travel in `State.cfg`, which no step changes (10_state R53); right after reset it is
`Config.params`, of which nothing is known but that R7's constraints hold (log 4).
-/

namespace Sys2Proof

/-- The parameters of R7. `SENS`, `G_CONST` and `T_POWERON` are outside the block (R4, R167, R287).
Durations are natural numbers of microseconds (DESIGN CHOICE, log 35: R7 gives "duration" and no unit): the trace uses
their order only (R298), and `Machine.primitivesOf` gives them to the delay primitives (R85). -/
structure Params where
  /-- ID_REG. -/
  idReg : RegAddr
  /-- ID_VALUE. -/
  idValue : Byte
  /-- PWR_REG. -/
  pwrReg : RegAddr
  /-- MEASURE_BIT. -/
  measureBit : Fin 8
  /-- DATA_BASE. -/
  dataBase : RegAddr
  /-- ACT_CONFIRM. -/
  actConfirm : Bool
  /-- MAX_COUNT. -/
  maxCount : Nat
  /-- FILL, sent while bytes are clocked in. -/
  fill : Byte
  /-- CS_ACTIVE, the level of an asserted chip-select. -/
  csActive : Bool
  /-- ROWS. -/
  rows : Nat
  /-- COLS. -/
  cols : Nat
  /-- T_PULSE, in microseconds. -/
  tPulse : Nat
  /-- T_SHORT, in microseconds. -/
  tShort : Nat
  /-- T_LONG, in microseconds. -/
  tLong : Nat
  /-- BYTE_SETUP_HOME (R189). -/
  byteSetupHome : Bool
  /-- LINEMAP, roles data 0 to data 7 in order. -/
  dataLines : List Nat
  /-- LINEMAP, role register-select. -/
  rsLine : Nat
  /-- LINEMAP, role enable. -/
  enLine : Nat
  /-- CS_LINE. -/
  csLine : Nat
deriving DecidableEq, Repr, Inhabited

/-- The constraints of R7's third column. MAX_COUNT is at most 255 because operations arrive as host
command words (R100). -/
def Params.ok (c : Params) : Bool :=
  decide (c.dataBase.toNat + 5 ≤ Machine.maxRegAddr) &&
  decide (6 ≤ c.maxCount) && decide (c.maxCount ≤ 255) &&
  decide (1 ≤ c.rows) && decide (c.rows ≤ 4) && decide (1 ≤ c.cols) &&
  (Machine.rowBases.take c.rows).all (fun base => decide (base.toNat + c.cols ≤ 0x100)) &&
  decide (0 < c.tPulse) && decide (0 < c.tShort) && decide (c.tShort < c.tLong) &&
  decide (c.dataLines.length = 8) &&
  decide ((c.dataLines ++ [c.rsLine, c.enLine, c.csLine]).Nodup)

/-- PB_SIZE (R7, R38). -/
def Params.pbSize (c : Params) : Nat := max 8 (max c.cols c.maxCount)

/-- The illustrative values of 95_test_vectors (no authority: 93 G1, G2). Tests use them, and
`Config.params` falls back on them where the platform's free record is not admissible. -/
def Params.illustrative : Params where
  idReg := 0x00
  idValue := 0xE5
  pwrReg := 0x2D
  measureBit := 3
  dataBase := 0x32
  actConfirm := false
  maxCount := 255
  fill := 0x00
  csActive := false
  rows := 4
  cols := 20
  tPulse := 1
  tShort := 50
  tLong := 2000
  byteSetupHome := true
  dataLines := [0, 1, 2, 3, 4, 5, 6, 7]
  rsLine := 8
  enLine := 9
  csLine := 10

/-- What the platform chose for every parameter of R7: free, nothing constrains it here. -/
opaque Config.platform : Params

/-- The parameters PPB runs with: the platform's, where they meet R7's constraints. Since
`Config.platform` is free, a claim about `Config.params` holds for every admissible choice (log 4). -/
def Config.params : Params :=
  if Config.platform.ok then Config.platform else Params.illustrative

/-- The byte the sensor answers to the n-th byte exchanged on the bus, where the state fixes none: a
free value (R10 "a free input", 93 U4; log 3). -/
opaque Config.sensorByte : Nat → Byte

end Sys2Proof
end

