-- ==== Sys2Proof/Machine/State.lean ====
section
/-!
DEFINITION. The state of PPB as plain data (spec 10_state), the events of its interface trace
(00_scope R11), the phases of its two sequencers (R44, R52), the moves of the agents around it
(00_scope R13), and the state right after reset (70_reset R281).
-/

namespace Sys2Proof.Machine

/-- The result code of an operation (10_state R31, 60_exceptions R240). Codes 7 to 15 are never written
(93 U19), so the type has no names for them; `statusCode` gives the numbers. -/
inductive Status where
  | ok
  | invalidArgument
  | outOfRange
  | identityMismatch
  | badState
  | halted
  | illegalOp
deriving DecidableEq, Repr, Inhabited

/-- The display state machine (10_state R46). Encoding 3 is never held (U19). -/
inductive PState where
  | uninitialized
  | initializing
  | ready
deriving DecidableEq, Repr, Inhabited

/-- The phases of the RBC sequencer (10_state R44). -/
inductive RPhase where
  | idle
  | sel
  | hdr
  | data (i : Nat)
  | desel
deriving DecidableEq, Repr, Inhabited

/-- The phases of the PDD sequencer (10_state R52). -/
inductive PPhase where
  | idle
  | rs
  | d1
  | e1h
  | w1
  | e1l
  | d2
  | e2h
  | w2
  | e2l
  | settle
deriving DecidableEq, Repr, Inhabited

/-- The delay classes of the event `DLY` (R11). -/
inductive Delay where
  | pulse
  | short
  | long
deriving DecidableEq, Repr, Inhabited

/-- The alphabet of the interface trace (00_scope R11). -/
inductive Event where
  /-- CS(1) / CS(0): assert / deassert chip-select. -/
  | cs (asserted : Bool)
  /-- XFER(t, r): one byte sent, one byte received. -/
  | xfer (t r : Byte)
  /-- INIT_LINES: ten display lines outputs, low. -/
  | initLines
  /-- RS(l). -/
  | rs (level : Bool)
  /-- DBF(v): all eight data lines. -/
  | dbf (v : Byte)
  /-- DBH(n): data lines 7 to 4. -/
  | dbh (n : Nibble)
  /-- EN(l). -/
  | en (level : Bool)
  /-- DLY(c). -/
  | dly (c : Delay)
deriving DecidableEq, Repr, Inhabited

/-- A display byte: value and target (30_encoding R110). -/
structure DisplayByte where
  value : Byte
  target : Target
deriving DecidableEq, Repr, Inhabited

/-- A register transaction to be loaded into the transaction registers (10_state R35). -/
inductive Tx where
  /-- A read of `count` bytes. -/
  | read (addr : RegAddr) (count : Byte)
  /-- A write of one byte. -/
  | write (addr : RegAddr) (byte : Byte)
  /-- ACTIVATE's write-back: the byte is `pwrval` with MEASURE_BIT set (41_sensor R163). -/
  | writeBack (addr : RegAddr)
deriving DecidableEq, Repr, Inhabited

/-- Where a byte read off the bus goes. -/
inductive ReadDest where
  /-- PB[k] (30_encoding R108). -/
  | pb
  /-- `idval` (41_sensor R160). -/
  | idval
  /-- `pwrval` (41_sensor R163). -/
  | pwrval
deriving DecidableEq, Repr, Inhabited

/-- How an operation ends, once its last event has been emitted. -/
inductive Finish where
  /-- done(OK, n). -/
  | ok (nread : Byte)
  /-- IDCHECK's comparison (R160). -/
  | identity
  /-- SAMPLE's decode (R166). -/
  | sample
  /-- SETUP's cursor <- 1, pstate <- Ready (R188). -/
  | setup
  /-- SHOWCUR's cursor <- 1 (R219). -/
  | showCursor
  /-- HIDECUR's cursor <- 0 (R220). -/
  | hideCursor
deriving DecidableEq, Repr, Inhabited

/-- One phase to leave: the unit of a sequencer's walk. `Machine.leave` gives its action. -/
inductive Micro where
  /-- R_SEL: CS(1). -/
  | sel
  /-- R_HDR: XFER(header). -/
  | hdr
  /-- R_DATA of a write: XFER(byte). -/
  | wdata
  /-- R_DATA of a read, index k: dest <- XFER(FILL). -/
  | rdata (dest : ReadDest) (k : Nat)
  /-- R_DESEL: CS(0), then R_IDLE or R_SEL for the next transaction. -/
  | desel (next : Option Tx)
  /-- SETUP's INIT_LINES. -/
  | initLines
  /-- P_RS. -/
  | rs (target : Target)
  /-- P_D1: the whole byte, or its high nibble. -/
  | d1 (value : Byte)
  /-- P_E1H. -/
  | e1h
  /-- P_W1. -/
  | w1
  /-- P_E1L. -/
  | e1l
  /-- P_D2: the low nibble. -/
  | d2 (value : Byte)
  /-- P_E2H. -/
  | e2h
  /-- P_W2. -/
  | w2
  /-- P_E2L. -/
  | e2l
  /-- P_SETTLE, then P_RS if another byte follows, else P_IDLE. -/
  | settle (byte : DisplayByte) (more : Bool)
  /-- Completion of the operation. -/
  | finish (how : Finish)
deriving DecidableEq, Repr, Inhabited

/-- A move of an agent around PPB. -/
inductive Move where
  /-- The host issues an operation and waits until it has completed (R13). -/
  | issue (w : HostWord)
  /-- The host issues an operation; its phases are then left one by one by `ret`. -/
  | start (w : HostWord)
  /-- The primitive the sequencer waits for returns: one phase is left (R44, R52; its event joins the trace here, log
  34). No `ret` is a stall (60_exceptions R253). -/
  | ret
  /-- The host writes a byte of PB (R38). -/
  | writePb (i : Nat) (v : Byte)
  /-- Reset is asserted (70_reset R280, R283). -/
  | reset
  /-- A byte of an 8-bit row of the table is handed to its sequencer alone. No agent of the spec makes
  this move: it lets the internal rows (headers, display bytes) be run by themselves (log 8). -/
  | internal (e : Encoded)
deriving DecidableEq, Repr, Inhabited

/-- Why the machine stops with a fault. Both are safe: a run that stops proves nothing false. -/
inductive Fault where
  /-- Raised by WRSTR and LDGLYPH before their first event: PB[index] is needed and has no value
  (93 U1, 60_exceptions R245 step 6). Safe. -/
  | pbNoValue (index : Nat)
  /-- Raised by a host write of PB[index] with index at or above PB_SIZE: there is no such byte
  (10_state R38). Safe. -/
  | pbNoSuchByte (index : Nat)
deriving DecidableEq, Repr

/-- Why the machine gives an input no meaning. All are safe: the input has no step. -/
inductive Refusal where
  /-- Raised by an arm of `exec` that is not written yet; no arm is. Safe. -/
  | notModelled (mnemonic : String)
  /-- Raised by every operation and by a PB write while `busy` = 1: the host has no such move
  (60_exceptions R245 step 1, 93 U7, U11). Leaving the move out errs toward proving (R19, D5): unsafe
  for a host that breaks the rule, log 16. -/
  | busy
  /-- Raised by HDR_RESERVED: PPB never emits the header 01aaaaaa (30_encoding R109). Safe. -/
  | reservedHeader
  /-- Raised by HDR_READN when the transaction registers hold no multi-byte count: the header is emitted
  only with count >= 2 (30_encoding R109, 10_state R35). Safe. -/
  | noMultiByteCount
  /-- Raised by the display byte rows before SETUP: SEND runs only after SETUP has chosen the mode and
  made the lines outputs (42_display R183). Safe. -/
  | sendBeforeSetup
  /-- Raised by every header and display byte row while `halted` = 1: an internal row runs only inside an
  operation, and a halted block runs none (60_exceptions R250). Safe. -/
  | blockHalted
  /-- Raised by `Move.internal` for a display command byte that is no row of the table. Safe. -/
  | commandNotInTable (b : Byte)
  /-- Raised by `Move.ret` when no operation is in flight: no primitive runs. Safe. -/
  | noPrimitive
deriving DecidableEq, Repr

/-- The state of PPB. -/
structure State where
  /-- LINEMAP, CS_LINE and every parameter (10_state R53, 00_scope R7); never written. -/
  cfg : Params
  /-- MODEL: moves of the agents not taken yet, the next one first (log 2). -/
  inputs : List Move
  /-- MODEL: answers of the sensor already fixed, the next one first (log 3). -/
  busIn : List Byte
  /-- MODEL: bytes exchanged on the bus so far, the argument of the free value (log 3). -/
  xfers : Nat
  /-- The interface trace, oldest event first (00_scope R11). -/
  trace : List Event
  /-- R30. -/
  busy : Bool
  /-- R31. -/
  status : Status
  /-- R32. -/
  nread : Byte
  /-- R33. -/
  halted : Bool
  /-- PB (R38): cells in canonical form, an unlisted byte has no value. -/
  pb : List Host.Cell
  /-- R34. -/
  cs : Bool
  /-- t_dir (R35): true Read, false Write. -/
  tDir : Bool
  /-- t_addr (R35). -/
  tAddr : RegAddr
  /-- t_mb (R35). -/
  tMb : Bool
  /-- t_cnt (R35). -/
  tCnt : Byte
  /-- The payload of a write transaction, "the operand byte" (R35). -/
  tByte : Byte
  /-- X (R36), a two's-complement signed number. -/
  x : BitVec 16
  /-- Y (R36). -/
  y : BitVec 16
  /-- Z (R36). -/
  z : BitVec 16
  /-- R37. -/
  idval : Byte
  /-- R37. -/
  pwrval : Byte
  /-- MODEL: X, Y, Z have the value of a SAMPLE (R281 "no value", log 5). -/
  hasSample : Bool
  /-- MODEL: `idval` has the value of an IDCHECK (log 5). -/
  hasId : Bool
  /-- MODEL: `pwrval` has the value of an ACTIVATE (log 5). -/
  hasPwr : Bool
  /-- R44. -/
  rseq : RPhase
  /-- R46. -/
  pstate : PState
  /-- R47: true nibble mode. -/
  nibble : Bool
  /-- R48. -/
  cursor : Bool
  /-- R49. -/
  oe : Bool
  /-- RS (R50). -/
  rs : Bool
  /-- EN (R50). -/
  en : Bool
  /-- DB[7:0] (R51). -/
  db : Byte
  /-- R52. -/
  pseq : PPhase
  /-- MODEL: the phases the operation in flight has still to leave (R55's index, log 9). -/
  walk : List Micro
deriving DecidableEq, Repr

/-- The state right after reset (70_reset R281). Registers for which R281 says "no value" hold 0
(DESIGN CHOICE, unsafe, log 5); PB bytes have no value. -/
def State.reset : State where
  cfg := Config.params
  inputs := []
  busIn := []
  xfers := 0
  trace := []
  busy := false
  status := .ok
  nread := 0
  halted := false
  pb := []
  cs := false
  tDir := false
  tAddr := 0
  tMb := false
  tCnt := 0
  tByte := 0
  x := 0
  y := 0
  z := 0
  idval := 0
  pwrval := 0
  hasSample := false
  hasId := false
  hasPwr := false
  rseq := .idle
  pstate := .uninitialized
  nibble := false
  cursor := false
  oe := false
  rs := false
  en := false
  db := 0
  pseq := .idle
  walk := []

/-- The result of a step. -/
abbrev Result := Host.Outcome State Fault Refusal

end Sys2Proof.Machine
end

