-- ==== Sys2Proof/Machine/Flags.lean ====
section
/-!
DEFINITION. Condition state. PPB has no arithmetic flags (spec 10_state R56): its conditions are `status`,
`halted`, `busy` and `pstate`. Here are their numbers and the comparisons that set them (30_encoding R121 (g)).
-/

namespace Sys2Proof.Machine

/-- The 4-bit code of a status (10_state R31, 60_exceptions R240). -/
def statusCode : Status → BitVec 4
  | .ok => 0
  | .invalidArgument => 1
  | .outOfRange => 2
  | .identityMismatch => 3
  | .badState => 4
  | .halted => 5
  | .illegalOp => 6

/-- The 2-bit code of the display state (10_state R46). -/
def pstateCode : PState → BitVec 2
  | .uninitialized => 0
  | .initializing => 1
  | .ready => 2

/-- `address > 0x3F` (40_register_bus R146). -/
def addressBad (address : Nat) : Bool := decide (maxRegAddr < address)

/-- `count < 1` or `count > MAX_COUNT` (40_register_bus R143, R147). -/
def countBad (maxCount count : Nat) : Bool := decide (count < 1) || decide (maxCount < count)

/-- `slot >= 8` (43_display R216). -/
def slotBad (slot : Nat) : Bool := decide (glyphSlots ≤ slot)

/-- `row >= ROWS or col >= COLS` (43_display R210). -/
def positionBad (rows cols row col : Nat) : Bool := decide (rows ≤ row) || decide (cols ≤ col)

/-- `idval != ID_VALUE`, on all 8 bits (41_sensor R160). -/
def identityBad (idValue idval : Byte) : Bool := decide (idval ≠ idValue)

end Sys2Proof.Machine
end

