-- ==== Sys2Proof/Machine/Memory.lean ====
section
/-!
DEFINITION. The payload buffer as a memory (spec 10_state R38, 20_memory R74): a list of (index, byte)
cells, indexes strictly rising. An unlisted index has NO VALUE (70_reset R281, 93 U1): reading it gives
`none`, and the operation that needs it faults. Since no byte can lose its value, a write never removes a cell.
-/

namespace Sys2Proof.Machine

/-- What an index that is not listed reads as: no value (R281). -/
def memUnlisted : Option Byte := none

/-- The byte at an index. -/
def memRead (i : Nat) : List Host.Cell → Option Byte
  | [] => memUnlisted
  | (k, v) :: rest => if k = i then some v else memRead i rest

/-- Write one byte, keeping the indexes strictly rising. -/
def memWrite (i : Nat) (v : Byte) : List Host.Cell → List Host.Cell
  | [] => [(i, v)]
  | (k, u) :: rest =>
    if k < i then (k, u) :: memWrite i v rest
    else if k = i then (i, v) :: rest
    else (i, v) :: (k, u) :: rest

/-- Every listed index is above `low`, and the list rises strictly from there. -/
def memRisesFrom (low : Nat) : List Host.Cell → Bool
  | [] => true
  | (k, _) :: rest => decide (low ≤ k) && memRisesFrom (k + 1) rest

/-- The canonical form: indexes strictly rising. Every listed cell holds a value, so none equals what an
unlisted index reads as. -/
def memWf (m : List Host.Cell) : Bool := memRisesFrom 0 m

/-- Every listed index is below `size`. -/
def memBelow (size : Nat) (m : List Host.Cell) : Bool := m.all (fun c => decide (c.1 < size))

/-- The first index below `n` that has no value, counting up from `start`. -/
def firstMissing (m : List Host.Cell) (start : Nat) : Nat → Option Nat
  | 0 => none
  | n + 1 =>
    match memRead start m with
    | none => some start
    | some _ => firstMissing m (start + 1) n

/-- The bytes at `start`, `start + 1`, ..., `n` of them, those that have a value. -/
def memBytes (m : List Host.Cell) (start : Nat) : Nat → List Byte
  | 0 => []
  | n + 1 =>
    match memRead start m with
    | none => memBytes m (start + 1) n
    | some v => v :: memBytes m (start + 1) n

/-- PB[i] (R10). -/
def State.pbAt (s : State) (i : Nat) : Option Byte := memRead i s.pb

end Sys2Proof.Machine
end

