-- ==== Sys2Proof/Machine/Operands.lean ====
section
/-!
DEFINITION. Operand forms and the arithmetic of the encodings (spec 30_encoding R105 to R117, R121):
header assembly, display command bytes, nibble split and multiplexer, register-select level, settle
class, sample assembly, ACTIVATE's modify step.
-/

namespace Sys2Proof.Machine

/-- Header assembly, `0x00 | address` and `0x80 | (multiByteBit << 6) | address` (R106): a bitwise OR of
three disjoint fields (R121 (a)). -/
def headerByte (dir mb : Bool) (addr : RegAddr) : Byte :=
  (if dir then hdrReadFlag else hdrWriteFlag) ||| (if mb then hdrMultiByte else 0) ||| addr.setWidth 8

/-- "`multiByteBit = 1` iff `count > 1`" (R106). -/
def multiByteBit (count : Byte) : Bool := decide (1 < count.toNat)

/-- An address operand as six bits (R70); the range check comes before (R146). -/
def regAddrOf (address : Nat) : RegAddr := BitVec.ofNat 6 address

/-- An 8-bit count (R35); the range check comes before (R147). -/
def countOf (count : Nat) : Byte := BitVec.ofNat 8 count

/-- ROW_BASE[row], looked up; there are four bases (R6, R112). -/
def rowBase (row : Nat) : Option Byte := rowBases[row]?

/-- `ROW_BASE[row] + col`, an 8-bit addition (R112, R121 (c)). -/
def cursorCommand (base : Byte) (col : Nat) : Byte := base + BitVec.ofNat 8 col

/-- `0x40 + 8 * slot` (R113, R121 (d)). -/
def glyphCommand (slot : Nat) : Byte := cmdGlyphBase + BitVec.ofNat 8 (glyphHeight * slot)

/-- The level of register-select: Command 0, Data 1 (42_display R184). PRESUMED, unsafe, log 10. -/
def rsLevel : Target → Bool
  | .command => false
  | .data => true

/-- The settle class: LONG for the two slow commands, SHORT for every other byte, Data bytes included
(R115, 42_display R185). DESIGN CHOICE D20, log 28. -/
def settleClass (b : DisplayByte) : Delay :=
  match b.target with
  | .data => .short
  | .command => if b.value = cmdClearByte ∨ b.value = cmdHomeByte then .long else .short

/-- Which half of the byte the multiplexer selects (42_display R186). -/
inductive Half where
  | hi
  | lo
deriving DecidableEq, Repr

/-- `byte[7:4]` or `byte[3:0]` (R121 (e)). -/
def halfOf (half : Half) (value : Byte) : Nibble :=
  match half with
  | .hi => value.extractLsb' 4 4
  | .lo => value.extractLsb' 0 4

/-- The nibble/byte multiplexer (42_display R186): in nibble mode only lines 7 to 4 have a write enable
(R187: nibble bit i on DB[4+i]; PRESUMED, unsafe, log 11), in byte mode all eight. -/
def muxLines (nibble : Bool) (half : Half) (value db : Byte) : Byte :=
  if nibble then halfOf half value ++ halfOf .lo db else value

/-- The event of one data line write: DBH(n) or DBF(v) (R11, R114). -/
def dataEvent (nibble : Bool) (half : Half) (value : Byte) : Event :=
  if nibble then .dbh (halfOf half value) else .dbf value

/-- `w = v | (1 << MEASURE_BIT)` (41_sensor R163, R121 (b)). -/
def setMeasureBit (bit : Fin 8) (v : Byte) : Byte := v ||| ((1 : Byte) <<< bit.val)

/-- `sext_16(high || low)` (20_memory R76, R121 (f)): a 16-bit register, read as signed by `toInt`. -/
def sampleWord (low high : Byte) : BitVec 16 := high ++ low

/-- The bytes SETUP sends, all Command (42_display R188, R189). -/
def setupBytes (nibbleMode byteSetupHome : Bool) : List DisplayByte :=
  (if nibbleMode then [⟨cmdHomeByte, .command⟩, ⟨cmdInit4Byte, .command⟩]
   else (if byteSetupHome then [⟨cmdHomeByte, .command⟩] else []) ++ [⟨cmdInit8Byte, .command⟩]) ++
  [⟨cmdClearByte, .command⟩, ⟨cmdDispOnByte, .command⟩, ⟨cmdEntryByte, .command⟩]

/-- The bytes of a string or glyph, all Data (43_display R213, R216). -/
def dataBytes (bytes : List Byte) : List DisplayByte := bytes.map (fun v => ⟨v, .data⟩)

end Sys2Proof.Machine
end

