-- ==== Sys2Proof/Machine/Ops.lean ====
section
/-!
DEFINITION. The named operations over the state (spec 00_scope R10): emitting an event, one bus byte, the
transaction registers, completing an operation, raising an error (PPB's only "exception", 60_exceptions
R247; there is no handler and no return, R249), the checks before an operation (R245), and reset.
-/

namespace Sys2Proof.Machine

/-- `emit E` (R10). -/
def State.emit (s : State) (e : Event) : State := { s with trace := s.trace ++ [e] }

/-- The byte the bus returns k exchanges on: the next answers already fixed, then free values
(R10 "r is a free input", 93 U4, log 3). -/
def busAnswer (busIn : List Byte) (xfers k : Nat) : Byte :=
  match busIn[k]? with
  | some r => r
  | none => Config.sensorByte (xfers + k)

/-- The byte the bus returns k exchanges from now. -/
def State.answer (s : State) (k : Nat) : Byte := busAnswer s.busIn s.xfers k

/-- The state after `XFER(t)`: the event with the returned byte, the answer consumed (R10, R11). -/
def State.afterXfer (s : State) (t : Byte) : State :=
  { s with trace := s.trace ++ [.xfer t (s.answer 0)], busIn := s.busIn.tail, xfers := s.xfers + 1 }

/-- Load the transaction registers (10_state R35). -/
def State.loadTx (s : State) : Tx → State
  | .read addr count =>
    { s with tDir := true, tAddr := addr, tMb := multiByteBit count, tCnt := count }
  | .write addr byte =>
    { s with tDir := false, tAddr := addr, tMb := false, tCnt := 1, tByte := byte }
  | .writeBack addr =>
    { s with tDir := false, tAddr := addr, tMb := false, tCnt := 1,
             tByte := setMeasureBit s.cfg.measureBit s.pwrval }

/-- Store the k-th byte a read returned (30_encoding R108, 41_sensor R160, R163). It is done when R_DATA is left, before
CS(0), as 10_state R44 has it and R160 and R163's confirming read write it. For ACTIVATE's first read R163's pseudocode
writes pwrval after CS(0): that the model stores it on leaving R_DATA there too is its choice (DESIGN CHOICE, log 36). -/
def State.storeRead (s : State) (dest : ReadDest) (k : Nat) (r : Byte) : State :=
  match dest with
  | .pb => { s with pb := memWrite k r s.pb }
  | .idval => { s with idval := r, hasId := true }
  | .pwrval => { s with pwrval := r, hasPwr := true }

/-- `done(status, n)` (R10): busy <- 0, status, nread; no event. -/
def State.done (s : State) (code : Status) (n : Byte) : State :=
  { s with busy := false, status := code, nread := n }

/-- `raise <Error>` before the first event (60_exceptions R247): status <- code, nread <- 0, busy <- 0,
nothing else. -/
def State.raise (s : State) (code : Status) : State := s.done code 0

/-- SAMPLE's decode of PB[0..5] (41_sensor R166, 20_memory R76): all three registers together. A walk of
SAMPLE has written the six bytes; without them nothing is decoded. -/
def State.decodeSample (s : State) : State :=
  match s.pbAt 0, s.pbAt 1, s.pbAt 2, s.pbAt 3, s.pbAt 4, s.pbAt 5 with
  | some b0, some b1, some b2, some b3, some b4, some b5 =>
    { s with x := sampleWord b0 b1, y := sampleWord b2 b3, z := sampleWord b4 b5, hasSample := true }
  | _, _, _, _, _, _ => s

/-- IDCHECK's comparison, after the frame (41_sensor R160): the one error that changes more than `status`
and `nread` (60_exceptions R247, R248). -/
def State.checkIdentity (s : State) : State :=
  if identityBad s.cfg.idValue s.idval then { s with halted := true }.done .identityMismatch 1
  else s.done .ok 1

/-- `precheck()` for the twelve operations: busy (no step), then halted (60_exceptions R245 steps 1, 3). -/
def precheck (s : State) (body : Result) : Result :=
  if s.busy then .refused .busy
  else if s.halted then .next (s.raise .halted)
  else body

/-- A reserved operation code: checked after busy and before halted (R245 step 2, 30_encoding R103). -/
def illegalOperation (s : State) : Result :=
  if s.busy then .refused .busy else .next (s.raise .illegalOp)

/-- The checks of a display operation other than SETUP: precheck, then `pstate = Ready` (R245 step 4,
42_display R194). -/
def whenReady (s : State) (body : Result) : Result :=
  precheck s (if s.pstate = .ready then body else .next (s.raise .badState))

/-- The payload check of WRSTR and LDGLYPH: PB[0 .. n-1] all have a value, else the model faults before
the first event (R245 step 6, 93 U1). -/
def withPayload (s : State) (n : Nat) (body : List Byte → Result) : Result :=
  match firstMissing s.pb 0 n with
  | some i => .fault (.pbNoValue i)
  | none => body (memBytes s.pb 0 n)

/-- Reset (70_reset R281, R283): every state element of the block at its reset value, at once, wherever an
operation stood. What is no state of the block stays: the parameters, the agents' moves and answers to
come, and the record of the trace (log 20). -/
def State.afterReset (s : State) : State :=
  { State.reset with
    cfg := s.cfg, inputs := s.inputs, busIn := s.busIn, xfers := s.xfers, trace := s.trace }

/-- The next state of a result, if it is one. -/
def nextOf : Result → Option State
  | .next s => some s
  | .fault _ => none
  | .refused _ => none

end Sys2Proof.Machine
end

