-- ==== Sys2Proof/Machine/Sequencer.lean ====
section
/-!
DEFINITION. The two sequencers (spec 10_state R44, R52): what leaving each phase does, the walks of a
register transaction and of a display byte, one step of the operation in flight, and running it to its end.
-/

namespace Sys2Proof.Machine

/-- The phase of the RBC sequencer after data byte k of a read (R44). -/
def nextReadPhase (count : Byte) (k : Nat) : RPhase :=
  if k + 1 < count.toNat then .data (k + 1) else .desel

/-- The phase of the PDD sequencer after P_E1L (R52): P_D2 in nibble mode only. -/
def afterE1L (nibble : Bool) : PPhase := if nibble then .d2 else .settle

/-- The phase of the PDD sequencer between bytes: P_RS if another byte follows, else P_IDLE (R52). -/
def nextBytePhase (more : Bool) : PPhase := if more then .rs else .idle

/-- How an operation ends. -/
def State.finish (s : State) : Finish → State
  | .ok n => s.done .ok n
  | .identity => s.checkIdentity
  | .sample => s.decodeSample.done .ok 6
  | .setup => { s with cursor := true, pstate := .ready }.done .ok 0
  | .showCursor => { s with cursor := true }.done .ok 0
  | .hideCursor => { s with cursor := false }.done .ok 0

/-- The action on leaving a phase (R44, R52, 42_display R180, R183, R188). R44 says "on leaving" of the RBC phases; R52
says only "action" of the PDD phases. That a PDD phase, too, puts its event on the trace and moves its lines when it is
left, so that a delay that has not returned (P_W1, P_W2, P_SETTLE) has no `DLY` on the trace yet, is the model's choice
(DESIGN CHOICE, unsafe for a claim about the trace of an operation in flight or cut by reset; log 34). INIT_LINES is a
phase of the model's own, after which pseq is P_RS (DESIGN CHOICE, log 37), and so is the completion (log 9). -/
def leave (m : Micro) (s : State) : State :=
  match m with
  | .sel => { s.emit (.cs true) with cs := true, rseq := .hdr }
  | .hdr => { s.afterXfer (headerByte s.tDir s.tMb s.tAddr) with rseq := .data 0 }
  | .wdata => { s.afterXfer s.tByte with rseq := .desel }
  | .rdata dest k =>
    { (s.afterXfer s.cfg.fill).storeRead dest k (s.answer 0) with rseq := nextReadPhase s.tCnt k }
  | .desel none => { s.emit (.cs false) with cs := false, rseq := .idle }
  | .desel (some tx) => { (s.emit (.cs false)).loadTx tx with cs := false, rseq := .sel }
  | .initLines =>
    { s.emit .initLines with oe := true, rs := false, en := false, db := 0, pseq := .rs }
  | .rs target => { s.emit (.rs (rsLevel target)) with rs := rsLevel target, pseq := .d1 }
  | .d1 value =>
    { s.emit (dataEvent s.nibble .hi value) with db := muxLines s.nibble .hi value s.db, pseq := .e1h }
  | .e1h => { s.emit (.en true) with en := true, pseq := .w1 }
  | .w1 => { s.emit (.dly .pulse) with pseq := .e1l }
  | .e1l => { s.emit (.en false) with en := false, pseq := afterE1L s.nibble }
  | .d2 value =>
    { s.emit (dataEvent s.nibble .lo value) with db := muxLines s.nibble .lo value s.db, pseq := .e2h }
  | .e2h => { s.emit (.en true) with en := true, pseq := .w2 }
  | .w2 => { s.emit (.dly .pulse) with pseq := .e2l }
  | .e2l => { s.emit (.en false) with en := false, pseq := .settle }
  | .settle byte more => { s.emit (.dly (settleClass byte)) with pseq := nextBytePhase more }
  | .finish how => s.finish how

/-- One phase of the operation in flight is left. -/
def tick (s : State) : State :=
  match s.walk with
  | [] => s
  | m :: rest => leave m { s with walk := rest }

/-- All phases of a walk are left in order. -/
def runMicros : List Micro → State → State
  | [], s => s
  | m :: rest, s => runMicros rest (leave m { s with walk := rest })

/-- The operation in flight runs to completion: "blocking and must run to completion" (20_memory R89). -/
def drain (s : State) : State := if s.busy then runMicros s.walk s else s

/-- An operation that has been begun, run to completion. -/
def complete : Result → Result
  | .next s => .next (drain s)
  | .fault f => .fault f
  | .refused r => .refused r

/-- The walk of a write transaction: R_SEL, R_HDR, R_DATA, R_DESEL (R44, 30_encoding R107). -/
def writeWalk (next : Option Tx) : List Micro := [.sel, .hdr, .wdata, .desel next]

/-- The data phases of a read: `first`, `first + 1`, ..., `n` of them, in ascending order (R108). -/
def readPhases (dest : ReadDest) (first : Nat) : Nat → List Micro
  | 0 => []
  | n + 1 => .rdata dest first :: readPhases dest (first + 1) n

/-- The walk of a read transaction of `count` bytes (R44, 30_encoding R108). -/
def readWalk (dest : ReadDest) (count : Nat) (next : Option Tx) : List Micro :=
  .sel :: .hdr :: (readPhases dest 0 count ++ [.desel next])

/-- The walk of SEND (R52, 42_display R183): the second half in nibble mode only. -/
def sendWalk (nibble : Bool) (b : DisplayByte) (more : Bool) : List Micro :=
  if nibble then
    [.rs b.target, .d1 b.value, .e1h, .w1, .e1l, .d2 b.value, .e2h, .w2, .e2l, .settle b more]
  else
    [.rs b.target, .d1 b.value, .e1h, .w1, .e1l, .settle b more]

/-- The walk of a sequence of display bytes. -/
def sendsWalk (nibble : Bool) : List DisplayByte → List Micro
  | [] => []
  | b :: rest => sendWalk nibble b (!rest.isEmpty) ++ sendsWalk nibble rest

/-- An accepted RBC operation: busy <- 1, the first transaction loaded, R_IDLE left (R30, R35, R44). -/
def State.acceptBus (s : State) (tx : Tx) (walk : List Micro) : State :=
  { s.loadTx tx with busy := true, rseq := .sel, walk := walk }

/-- An accepted display operation that sends `bytes` and then ends by `how` (R30, R52). P_IDLE is left at the acceptance,
as R44 says of R_IDLE and R52 does not say (DESIGN CHOICE, log 37). -/
def State.acceptDisplay (s : State) (bytes : List DisplayByte) (how : Finish) : State :=
  { s with busy := true, pseq := nextBytePhase (!bytes.isEmpty),
           walk := sendsWalk s.nibble bytes ++ [.finish how] }

/-- The checks before an internal row runs by itself: it runs only inside an operation, so not while one
is in flight and not in a halted block (60_exceptions R245, R250; log 8). -/
def internalCheck (s : State) (body : Result) : Result :=
  if s.busy then .refused .busy
  else if s.halted then .refused .blockHalted
  else body

/-- A single frame run by itself: an internal row of the bus layer (log 8). -/
def runFrame (s : State) (tx : Tx) (walk : List Micro) : Result :=
  internalCheck s (.next (runMicros walk { s.loadTx tx with rseq := .sel }))

/-- SEND of one display byte run by itself: an internal row of the display layers (42_display R183; SEND
"is reached only after the caller's checks", so not before SETUP; log 8). -/
def runSend (s : State) (b : DisplayByte) : Result :=
  internalCheck s
    (if s.pstate = .uninitialized then .refused .sendBeforeSetup
     else .next (runMicros (sendWalk s.nibble b false) { s with pseq := .rs }))

end Sys2Proof.Machine
end

