-- ==== Sys2Proof/Machine/Bus.lean ====
section
/-!
DEFINITION. The Register Bus Client primitives WRREG and RDREG (spec 40_register_bus) and the four header
rows of the bus layer (30_encoding R105 to R109).
-/

namespace Sys2Proof.Machine

/-- WRREG up to its acceptance (R140, R146). -/
def beginWrreg (address : Nat) (byte : Byte) (s : State) : Result :=
  precheck s (.next
    (if addressBad address then s.raise .invalidArgument
     else s.acceptBus (.write (regAddrOf address) byte) (writeWalk none ++ [.finish (.ok 0)])))

/-- WRREG (R140). -/
def execWrreg (address : Nat) (byte : Byte) (s : State) : Result :=
  complete (beginWrreg address byte s)

/-- RDREG up to its acceptance: count first, then the bound, then the address (R143, R146, R147). -/
def beginRdreg (address count : Nat) (s : State) : Result :=
  precheck s (.next
    (if countBad s.cfg.maxCount count then s.raise .invalidArgument
     else if addressBad address then s.raise .invalidArgument
     else s.acceptBus (.read (regAddrOf address) (countOf count))
       (readWalk .pb count none ++ [.finish (.ok (countOf count))])))

/-- RDREG (R143). -/
def execRdreg (address count : Nat) (s : State) : Result := complete (beginRdreg address count s)

/-- Header 00aaaaaa: the write frame (R107) with the payload byte the transaction registers hold. -/
def execHdrWrite (addr : RegAddr) (s : State) : Result :=
  runFrame s (.write addr s.tByte) (writeWalk none)

/-- Header 10aaaaaa: the read frame of one byte, into PB[0] (R108). -/
def execHdrRead1 (addr : RegAddr) (s : State) : Result :=
  runFrame s (.read addr 1) (readWalk .pb 1 none)

/-- Header 11aaaaaa: the read frame of the count the transaction registers hold, into PB (R108). The
header exists only for a count of at least 2 (R109). -/
def execHdrReadN (addr : RegAddr) (s : State) : Result :=
  internalCheck s
    (if multiByteBit s.tCnt then runFrame s (.read addr s.tCnt) (readWalk .pb s.tCnt.toNat none)
     else .refused .noMultiByteCount)

/-- Header 01aaaaaa: "never" emitted, "the source defines no multi-byte write" (R109). -/
def execHdrReserved (_addr : RegAddr) (_s : State) : Result := .refused .reservedHeader

end Sys2Proof.Machine
end

