-- ==== Sys2Proof/Machine/Display.lean ====
section
/-!
DEFINITION. The display: SETUP and WRBYTE (spec 42_display_transfer), MOVECUR, WRSTR, LDGLYPH, SHOWCUR and
HIDECUR (43_display_commands).
-/

namespace Sys2Proof.Machine

/-- SETUP up to its acceptance (R188, R191, R192): pstate and nibble are written before INIT_LINES, and every
byte is sent under the mode just written. R44 and R52 name no phase for INIT_LINES: that it is the first phase of SETUP's
walk, left by a `ret` of its own while pseq is still P_IDLE, so that an accepted SETUP can stand with busy = 1 and no
INIT_LINES on the trace, is the model's choice (DESIGN CHOICE, log 37). -/
def beginSetup (nibbleMode : Bool) (s : State) : Result :=
  precheck s (.next
    (if s.pstate = .uninitialized then
       { s with busy := true, pstate := .initializing, nibble := nibbleMode,
                walk := .initLines ::
                  (sendsWalk nibbleMode (setupBytes nibbleMode s.cfg.byteSetupHome) ++ [.finish .setup]) }
     else s.raise .badState))

/-- SETUP (R188). -/
def execSetup (nibbleMode : Bool) (s : State) : Result := complete (beginSetup nibbleMode s)

/-- WRBYTE up to its acceptance (R193). -/
def beginWrbyte (byte : Byte) (target : Target) (s : State) : Result :=
  whenReady s (.next (s.acceptDisplay [⟨byte, target⟩] (.ok 0)))

/-- WRBYTE (R193). -/
def execWrbyte (byte : Byte) (target : Target) (s : State) : Result :=
  complete (beginWrbyte byte target s)

/-- MOVECUR up to its acceptance (R210): the range check, then the base looked up per row. A row without a
base is outside the supported rows. -/
def beginMovecur (row col : Nat) (s : State) : Result :=
  whenReady s (.next
    (if positionBad s.cfg.rows s.cfg.cols row col then s.raise .outOfRange
     else match rowBase row with
       | none => s.raise .outOfRange
       | some base => s.acceptDisplay [⟨cursorCommand base col, .command⟩] (.ok 0)))

/-- MOVECUR (R210). -/
def execMovecur (row col : Nat) (s : State) : Result := complete (beginMovecur row col s)

/-- WRSTR up to its acceptance (R213): PB[0 .. COLS-1] as data. -/
def beginWrstr (s : State) : Result :=
  whenReady s (withPayload s s.cfg.cols fun bytes =>
    .next (s.acceptDisplay (dataBytes bytes) (.ok 0)))

/-- WRSTR (R213). -/
def execWrstr (s : State) : Result := complete (beginWrstr s)

/-- LDGLYPH up to its acceptance (R216): the glyph address as a command, then PB[0..7] as data. -/
def beginLdglyph (slot : Nat) (s : State) : Result :=
  whenReady s
    (if slotBad slot then .next (s.raise .outOfRange)
     else withPayload s glyphHeight fun bytes =>
       .next (s.acceptDisplay (⟨glyphCommand slot, .command⟩ :: dataBytes bytes) (.ok 0)))

/-- LDGLYPH (R216). -/
def execLdglyph (slot : Nat) (s : State) : Result := complete (beginLdglyph slot s)

/-- SHOWCUR up to its acceptance (R219). -/
def beginShowcur (s : State) : Result :=
  whenReady s (.next (s.acceptDisplay [⟨cmdDispOnByte, .command⟩] .showCursor))

/-- SHOWCUR (R219). -/
def execShowcur (s : State) : Result := complete (beginShowcur s)

/-- HIDECUR up to its acceptance (R220). -/
def beginHidecur (s : State) : Result :=
  whenReady s (.next (s.acceptDisplay [⟨cmdDispOffByte, .command⟩] .hideCursor))

/-- HIDECUR (R220). -/
def execHidecur (s : State) : Result := complete (beginHidecur s)

end Sys2Proof.Machine
end

