-- ==== Sys2Proof/Machine/DisplayBytes.lean ====
section
/-!
DEFINITION. The display byte rows of the opcode table (spec 30_encoding R111 to R113): the internal
micro-operation SEND (42_display R183) of each byte PPB generates, and of a data byte.
-/

namespace Sys2Proof.Machine

/-- SEND(0x01, Command): clear-display. -/
def execCmdClear (s : State) : Result := runSend s ⟨cmdClearByte, .command⟩

/-- SEND(0x02, Command): home. -/
def execCmdHome (s : State) : Result := runSend s ⟨cmdHomeByte, .command⟩

/-- SEND(0x06, Command): auto-increment-right. -/
def execCmdEntry (s : State) : Result := runSend s ⟨cmdEntryByte, .command⟩

/-- SEND(0x0C, Command): the source's display-off. -/
def execCmdDispOff (s : State) : Result := runSend s ⟨cmdDispOffByte, .command⟩

/-- SEND(0x0F, Command): the source's display-on. -/
def execCmdDispOn (s : State) : Result := runSend s ⟨cmdDispOnByte, .command⟩

/-- SEND(0x28, Command): 4-line interface init. -/
def execCmdInit4 (s : State) : Result := runSend s ⟨cmdInit4Byte, .command⟩

/-- SEND(0x38, Command): 8-line interface init. -/
def execCmdInit8 (s : State) : Result := runSend s ⟨cmdInit8Byte, .command⟩

/-- SEND(0x40 + 8 * slot, Command): set glyph memory address (R113). -/
def execCmdSetGlyphAddr (slot : BitVec 3) (s : State) : Result :=
  runSend s ⟨glyphCommand slot.toNat, .command⟩

/-- SEND(1ccccccc, Command): set cursor address (R112). -/
def execCmdSetCursor (position : BitVec 7) (s : State) : Result :=
  runSend s ⟨0x80 ||| position.setWidth 8, .command⟩

/-- SEND(value, Data) (R183). -/
def execDataByte (value : Byte) (s : State) : Result := runSend s ⟨value, .data⟩

end Sys2Proof.Machine
end

