-- ==== Sys2Proof/Machine/Reserved.lean ====
section
/-!
DEFINITION. The reserved operation codes 0x0, 0x6, 0x7, 0xF (spec 30_encoding R103): status IllegalOp,
nread 0, no event, no other change.
-/

namespace Sys2Proof.Machine

/-- Operation code 0x0. -/
def execReserved0 (s : State) : Result := illegalOperation s

/-- Operation code 0x6. -/
def execReserved6 (s : State) : Result := illegalOperation s

/-- Operation code 0x7. -/
def execReserved7 (s : State) : Result := illegalOperation s

/-- Operation code 0xF. -/
def execReservedF (s : State) : Result := illegalOperation s

end Sys2Proof.Machine
end

