-- ==== Sys2Proof/Machine/Sensor.lean ====
section
/-!
DEFINITION. The sensor sequences IDCHECK, ACTIVATE, SAMPLE (spec 41_sensor_sequences): fixed sequences of
register transactions with operands taken from the parameters (30_encoding R120).
-/

namespace Sys2Proof.Machine

/-- IDCHECK up to its acceptance (R160). -/
def beginIdcheck (s : State) : Result :=
  precheck s (.next (s.acceptBus (.read s.cfg.idReg 1) (readWalk .idval 1 none ++ [.finish .identity])))

/-- IDCHECK (R160). -/
def execIdcheck (s : State) : Result := complete (beginIdcheck s)

/-- The frames of ACTIVATE: read, write back, and the confirming read where ACT_CONFIRM (R163). -/
def activateWalk (c : Params) : List Micro :=
  readWalk .pwrval 1 (some (.writeBack c.pwrReg)) ++
  (if c.actConfirm then
     writeWalk (some (.read c.pwrReg 1)) ++ readWalk .pwrval 1 none
   else writeWalk none) ++
  [.finish (.ok 0)]

/-- ACTIVATE up to its acceptance (R163). -/
def beginActivate (s : State) : Result :=
  precheck s (.next (s.acceptBus (.read s.cfg.pwrReg 1) (activateWalk s.cfg)))

/-- ACTIVATE (R163). -/
def execActivate (s : State) : Result := complete (beginActivate s)

/-- SAMPLE up to its acceptance (R166). -/
def beginSample (s : State) : Result :=
  precheck s (.next (s.acceptBus (.read s.cfg.dataBase (countOf sampleLen))
    (readWalk .pb sampleLen none ++ [.finish .sample])))

/-- SAMPLE (R166). -/
def execSample (s : State) : Result := complete (beginSample s)

end Sys2Proof.Machine
end

