-- ==== Sys2Proof/Machine/Begin.lean ====
section
/-!
DEFINITION. `beginOp`: an operation up to its acceptance, before its first phase is left (spec 10_state R30, R44,
R52). It is what `Move.start` does; `exec` is the same operation run to its end. A reserved code completes at
once, and the internal rows, which are no operations of the host (00_scope R14), run whole.
-/

namespace Sys2Proof.Machine

/-- The operation checked, and accepted if the checks pass (60_exceptions R245). -/
def beginOp (i : Instr) (s : State) : Result :=
  match i with
  | .wrreg address byte => beginWrreg address byte s
  | .rdreg address count => beginRdreg address count s
  | .idcheck => beginIdcheck s
  | .activate => beginActivate s
  | .sample => beginSample s
  | .setup nibbleMode => beginSetup nibbleMode s
  | .wrbyte byte target => beginWrbyte byte target s
  | .movecur row col => beginMovecur row col s
  | .wrstr => beginWrstr s
  | .ldglyph slot => beginLdglyph slot s
  | .showcur => beginShowcur s
  | .hidecur => beginHidecur s
  | .reserved0 => execReserved0 s
  | .reserved6 => execReserved6 s
  | .reserved7 => execReserved7 s
  | .reservedF => execReservedF s
  | .hdrWrite addr => execHdrWrite addr s
  | .hdrRead1 addr => execHdrRead1 addr s
  | .hdrReadN addr => execHdrReadN addr s
  | .hdrReserved addr => execHdrReserved addr s
  | .cmdClear => execCmdClear s
  | .cmdHome => execCmdHome s
  | .cmdEntry => execCmdEntry s
  | .cmdDispOff => execCmdDispOff s
  | .cmdDispOn => execCmdDispOn s
  | .cmdInit4 => execCmdInit4 s
  | .cmdInit8 => execCmdInit8 s
  | .cmdSetGlyphAddr slot => execCmdSetGlyphAddr slot s
  | .cmdSetCursor position => execCmdSetCursor position s
  | .dataByte value => execDataByte value s

end Sys2Proof.Machine
end

