-- ==== Sys2Proof/Machine/Dispatch.lean ====
section
/-!
DEFINITION. Dispatch: one arm per constructor of `Instr`, each one direct call of that row's meaning.
-/

namespace Sys2Proof.Machine

/-- The meaning of every row of the opcode table: the operation runs to completion (spec 20_memory R89). -/
def exec (i : Instr) (s : State) : Host.Outcome State Fault Refusal :=
  match i with
  | .wrreg address byte => Sys2Proof.Machine.execWrreg address byte s
  | .rdreg address count => Sys2Proof.Machine.execRdreg address count s
  | .idcheck => Sys2Proof.Machine.execIdcheck s
  | .activate => Sys2Proof.Machine.execActivate s
  | .sample => Sys2Proof.Machine.execSample s
  | .setup nibbleMode => Sys2Proof.Machine.execSetup nibbleMode s
  | .wrbyte byte target => Sys2Proof.Machine.execWrbyte byte target s
  | .movecur row col => Sys2Proof.Machine.execMovecur row col s
  | .wrstr => Sys2Proof.Machine.execWrstr s
  | .ldglyph slot => Sys2Proof.Machine.execLdglyph slot s
  | .showcur => Sys2Proof.Machine.execShowcur s
  | .hidecur => Sys2Proof.Machine.execHidecur s
  | .reserved0 => Sys2Proof.Machine.execReserved0 s
  | .reserved6 => Sys2Proof.Machine.execReserved6 s
  | .reserved7 => Sys2Proof.Machine.execReserved7 s
  | .reservedF => Sys2Proof.Machine.execReservedF s
  | .hdrWrite addr => Sys2Proof.Machine.execHdrWrite addr s
  | .hdrRead1 addr => Sys2Proof.Machine.execHdrRead1 addr s
  | .hdrReadN addr => Sys2Proof.Machine.execHdrReadN addr s
  | .hdrReserved addr => Sys2Proof.Machine.execHdrReserved addr s
  | .cmdClear => Sys2Proof.Machine.execCmdClear s
  | .cmdHome => Sys2Proof.Machine.execCmdHome s
  | .cmdEntry => Sys2Proof.Machine.execCmdEntry s
  | .cmdDispOff => Sys2Proof.Machine.execCmdDispOff s
  | .cmdDispOn => Sys2Proof.Machine.execCmdDispOn s
  | .cmdInit4 => Sys2Proof.Machine.execCmdInit4 s
  | .cmdInit8 => Sys2Proof.Machine.execCmdInit8 s
  | .cmdSetGlyphAddr slot => Sys2Proof.Machine.execCmdSetGlyphAddr slot s
  | .cmdSetCursor position => Sys2Proof.Machine.execCmdSetCursor position s
  | .dataByte value => Sys2Proof.Machine.execDataByte value s

end Sys2Proof.Machine
end

