-- ==== Sys2Proof/Machine/Moves.lean ====
section
/-!
DEFINITION. What each move of an agent does (spec 00_scope R13, 60_exceptions R253, 70_reset R283, R290,
R300), and how a word of the opcode table is placed as the next move.
-/

namespace Sys2Proof.Machine

/-- A word of some layer is decoded and run to completion. -/
def runWord (e : Encoded) (s : State) : Result :=
  match decode e with
  | .ok i => exec i s
  | .error (.commandNotInTable b) => .refused (.commandNotInTable b)

/-- A host command word is decoded and begun. -/
def startWord (w : HostWord) (s : State) : Result := beginOp (decodeHost w) s

/-- The primitive the operation in flight waits for returns: one phase is left (10_state R44, R52). -/
def primitiveReturns (s : State) : Result :=
  if s.walk.isEmpty then .refused .noPrimitive else .next (tick s)

/-- The host writes PB[i]: only while busy = 0 (70_reset R300, 93 U7), only inside PB (10_state R38). -/
def hostWritePb (i : Nat) (v : Byte) (s : State) : Result :=
  if s.busy then .refused .busy
  else if i < s.cfg.pbSize then .next { s with pb := memWrite i v s.pb }
  else .fault (.pbNoSuchByte i)

/-- One move. -/
def takeMove (m : Move) (s : State) : Result :=
  match m with
  | .issue w => runWord (.host w) s
  | .start w => startWord w s
  | .ret => primitiveReturns s
  | .writePb i v => hostWritePb i v s
  | .reset => .next s.afterReset
  | .internal e => runWord e s

/-- No move: an idle block waits; a busy one stays in its phase for ever, a stall (10_state R44,
60_exceptions R253, decision D40). -/
def waitMove (s : State) : Result := .next s

/-- What the rows of a layer need before they can run by themselves: a multi-byte count for a multi-byte
header (30_encoding R109), a display that has been set up for a display byte (42_display R183). The latter sets `pstate` and
`oe` only: `nibble`, `cursor`, RS, EN and DB keep what they hold. From reset that is the model's stand-in 0, so a display
byte placed there runs in byte mode on lines at 0, and the host then reads 0 for `nibble` and `cursor`, where the spec has
SETUP write them all first (10_state R47 to R51, R188): DESIGN CHOICE, unsafe, log 38. No `step` calls this function. -/
def State.readyFor (s : State) (e : Encoded) : State :=
  match e with
  | .host _ => s
  | .bus b =>
    if b.getLsbD 7 && b.getLsbD 6 then
      (if multiByteBit s.tCnt then s else { s with tCnt := 2 })
    else s
  | .command _ => if s.pstate = .uninitialized then { s with pstate := .ready, oe := true } else s
  | .data _ => if s.pstate = .uninitialized then { s with pstate := .ready, oe := true } else s

/-- A word as the move that runs it. -/
def moveOf (e : Encoded) : Move :=
  match e with
  | .host w => .issue w
  | .bus b => .internal (.bus b)
  | .command b => .internal (.command b)
  | .data b => .internal (.data b)

/-- A word placed as the next move, with what its layer needs. -/
def State.placeWord (s : State) (e : Encoded) : State :=
  { s.readyFor e with inputs := moveOf e :: s.inputs }

end Sys2Proof.Machine
end

