-- ==== Sys2Proof/Machine/Step.lean ====
section
/-!
DEFINITION. One step of the machine: the next move of the agents is taken; without one, PPB waits. PPB
fetches no instructions (spec 10_state R55, 20_memory R93): the host hands it one operation at a time.
-/

namespace Sys2Proof.Machine

/-- One step. -/
def step (s : State) : Host.Outcome State Fault Refusal :=
  match s.inputs with
  | [] => waitMove s
  | m :: rest => takeMove m { s with inputs := rest }

/-- The table's word of `nbits` bits placed where the next step takes it; a number that is no word of the
table places nothing (log 2, log 7). What a display byte placed before SETUP finds is log 38. -/
def State.withFetchWord (s : State) (nbits w : Nat) : State :=
  match tableWord nbits w with
  | none => s
  | some e => s.placeWord e

end Sys2Proof.Machine
end

