-- ==== Sys2Proof/Machine/HostPort.lean ====
section
/-!
DEFINITION. What the host reads (spec 10_state R36 to R38, R57, 30_encoding R104; "a model reads state by
name", 91 N14). Observers of the state, no moves: a read changes nothing. A register to which the spec gives
no value yet is answered so (R281 "no value", 93 U1), never with the model's reset value (log 5).
-/

namespace Sys2Proof.Machine

/-- The registers the host reads (10_state R30 to R33, R36, R37, R46 to R49). -/
inductive HostReg where
  | busy
  | status
  | nread
  | halted
  | x
  | y
  | z
  | idval
  | pwrval
  | pstate
  | nibble
  | cursor
  | oe
deriving DecidableEq, Repr

/-- What a host read gives. -/
inductive HostRead where
  /-- The register's value as a number; X, Y, Z are signed (00_scope R9). -/
  | value (v : Int)
  /-- The register holds no value a model may read (93 U1). -/
  | noValue
  /-- The host has no such move while an operation is in flight (93 U7). -/
  | notWhileBusy
deriving DecidableEq, Repr

/-- A bit as a number. -/
def bitValue (b : Bool) : Int := if b then 1 else 0

/-- A value the spec may not have given yet. -/
def readIf (has : Bool) (v : Int) : HostRead := if has then .value v else .noValue

/-- A result register, readable while busy = 0 (10_state R36; 93 U7). -/
def resultRead (s : State) (has : Bool) (v : Int) : HostRead :=
  if s.busy then .notWhileBusy else readIf has v

/-- The host reads a register by name. -/
def State.hostRead (s : State) : HostReg → HostRead
  | .busy => .value (bitValue s.busy)
  | .status => .value (statusCode s.status).toNat
  | .nread => .value s.nread.toNat
  | .halted => .value (bitValue s.halted)
  | .x => resultRead s s.hasSample s.x.toInt
  | .y => resultRead s s.hasSample s.y.toInt
  | .z => resultRead s s.hasSample s.z.toInt
  | .idval => resultRead s s.hasId s.idval.toNat
  | .pwrval => resultRead s s.hasPwr s.pwrval.toNat
  | .pstate => .value (pstateCode s.pstate).toNat
  | .nibble => readIf (decide (s.pstate ≠ .uninitialized)) (bitValue s.nibble)
  | .cursor => readIf (decide (s.pstate = .ready)) (bitValue s.cursor)
  | .oe => .value (bitValue s.oe)

/-- The host reads PB[i] (10_state R38). -/
def State.hostReadPb (s : State) (i : Nat) : HostRead :=
  if s.busy then .notWhileBusy
  else match s.pbAt i with
    | none => .noValue
    | some v => .value v.toNat

end Sys2Proof.Machine
end

