-- ==== Sys2Proof/Machine/Lines.lean ====
section
/-!
DEFINITION. Below and beside the events: the pins (spec 10_state R34, R49 to R51, R53, 70_reset R282), the
primitive calls an event stands for (00_scope R11, 20_memory R82 to R85, 60_exceptions R255), the bits of a
byte on the wire (20_memory R77, R83), the lower bounds of the delays (R298) and counts over a trace (R195, R301).
-/

namespace Sys2Proof.Machine

/-- The level PPB drives on a line, `none` where it drives none: chip-select always (asserted = CS_ACTIVE),
the ten display lines only once `oe` = 1 (R49, R282). -/
def State.pinLevel (s : State) (line : Nat) : Option Bool :=
  if line = s.cfg.csLine then some (if s.cs then s.cfg.csActive else !s.cfg.csActive)
  else if s.oe then
    if line = s.cfg.rsLine then some s.rs
    else if line = s.cfg.enLine then some s.en
    else (s.cfg.dataLines.idxOf? line).map (fun i => s.db.getLsbD i)
  else none

/-- A call of a platform primitive (R11; 20_memory section 4). A delay's argument counts its primitive's own unit,
microseconds or milliseconds, and is a lower bound (R85). -/
inductive Primitive where
  | configureOutput (line : Nat)
  | setLine (line : Nat) (level : Bool)
  | busTransfer (sent received : Byte)
  | delayMicroseconds (atLeast : Nat)
  | delayMilliseconds (atLeast : Nat)
deriving DecidableEq, Repr

/-- The ten display lines in role order. -/
def displayLines (c : Params) : List Nat := c.dataLines ++ [c.rsLine, c.enLine]

/-- The duration parameter of a delay class, in microseconds (log 35): the lower bound of `DLY(c)` (R85, R298). -/
def delayBound (c : Params) : Delay → Nat
  | .pulse => c.tPulse
  | .short => c.tShort
  | .long => c.tLong

/-- The least whole number of milliseconds that lasts at least so many microseconds: a delay may last longer than its
parameter and never shorter (R85, R298). -/
def wholeMillis (micros : Nat) : Nat := (micros + 999) / 1000

/-- The primitive calls of one event, in one admissible order: the order inside INIT_LINES and inside one
data line write is not fixed (93 U15), so any permutation of such a group is as good (log 18). PULSE and SHORT are
served by `delayMicroseconds`, LONG by `delayMilliseconds` (60_exceptions R255). The spec gives T_PULSE, T_SHORT and
T_LONG no unit: that they count microseconds, and that LONG is rounded up to whole milliseconds, is the model's choice
(DESIGN CHOICE, log 35). -/
def primitivesOf (c : Params) : Event → List Primitive
  | .cs asserted => [.setLine c.csLine (if asserted then c.csActive else !c.csActive)]
  | .xfer t r => [.busTransfer t r]
  | .initLines =>
    (displayLines c).map .configureOutput ++ (displayLines c).map (fun l => .setLine l false)
  | .rs level => [.setLine c.rsLine level]
  | .dbf v => (c.dataLines.zipIdx).map (fun l => .setLine l.1 (v.getLsbD l.2))
  | .dbh n => ((c.dataLines.drop 4).zipIdx).map (fun l => .setLine l.1 (n.getLsbD l.2))
  | .en level => [.setLine c.enLine level]
  | .dly .pulse => [.delayMicroseconds c.tPulse]
  | .dly .short => [.delayMicroseconds c.tShort]
  | .dly .long => [.delayMilliseconds (wholeMillis c.tLong)]

/-- The bits of a byte in the order they are clocked, bit 7 first (20_memory R77). -/
def wireBits (b : Byte) : List Bool :=
  [b.getLsbD 7, b.getLsbD 6, b.getLsbD 5, b.getLsbD 4, b.getLsbD 3, b.getLsbD 2, b.getLsbD 1, b.getLsbD 0]

/-- One half period of the serial clock. -/
structure ClockHalf where
  /-- Level of the clock line. -/
  sclk : Bool
  /-- The bit PPB sends. -/
  sent : Bool
  /-- The bit the sensor sends. -/
  received : Bool
deriving DecidableEq, Repr

/-- The clock line while no byte is exchanged: CPOL=1 idles high (20_memory R83; PRESUMED, log 24). -/
def sclkIdle : Bool := true

/-- The sixteen half periods of one XFER: CPHA=1 puts each bit on the line at the falling edge and samples
it at the rising edge (20_memory R83; PRESUMED, log 24; no rule at the byte level uses it). -/
def clockHalves (t r : Byte) : List ClockHalf :=
  ((wireBits t).zip (wireBits r)).flatMap (fun b => [⟨!sclkIdle, b.1, b.2⟩, ⟨sclkIdle, b.1, b.2⟩])

/-- Clock periods of an event: eight per byte (R301). -/
def clockPeriods : Event → Nat
  | .xfer _ _ => 8
  | _ => 0

/-- Clock periods of a trace (R301). -/
def traceClocks (trace : List Event) : Nat := (trace.map clockPeriods).sum

/-- The microseconds the bytes of a trace take on the bus at the reference clock rate: a lower bound of the
time from the first to the last clock edge (R301), no duration of an actual platform (log 19). -/
def busMicrosAtRef (trace : List Event) : Nat := traceClocks trace * 1000000 / sclkRefHz

/-- Enable pulses of a trace, counted at the falling edge (R195). -/
def tracePulses (trace : List Event) : Nat := trace.count (.en false)

/-- Settle delays of a trace (R195). -/
def traceSettles (trace : List Event) : Nat := trace.count (.dly .short) + trace.count (.dly .long)

/-- Register-select events of a trace (R195). -/
def traceSelects (trace : List Event) : Nat := trace.count (.rs false) + trace.count (.rs true)

end Sys2Proof.Machine
end

