-- ==== Sys2Proof/Safety.lean ====
section
/-!
DEFINITION. The terms claims are stated in: the invariant of the block, the shape of a legal bus trace and of
a legal display trace, what a receiver on the display lines latches, and a safe state.
-/

namespace Sys2Proof.Machine

/-- `halted` = 1 is a fault state: "never a final state of a successful run" (spec 60_exceptions R250). -/
def State.safe (s : State) : Bool := !s.halted

/-- A transaction a walk may load next fits MAX_COUNT (R143, R147). -/
def txFits (c : Params) : Option Tx → Bool
  | none => true
  | some (.read _ count) => decide (count.toNat ≤ c.maxCount)
  | some (.write _ _) => decide (1 ≤ c.maxCount)
  | some (.writeBack _) => decide (1 ≤ c.maxCount)

/-- The micro stands at the sequencers' current phase (10_state R44, R52), the other unit being idle. INIT_LINES, for which
R52 has no phase, stands at P_IDLE with pstate Initializing (log 37); the completion stands at the idle phases (log 9). -/
def atPhase (m : Micro) (s : State) : Bool :=
  match m with
  | .sel => decide (s.rseq = .sel ∧ s.pseq = .idle)
  | .hdr => decide (s.rseq = .hdr ∧ s.pseq = .idle)
  | .wdata => decide (s.rseq = .data 0 ∧ s.pseq = .idle ∧ s.tDir = false)
  | .rdata _ k => decide (s.rseq = .data k ∧ s.pseq = .idle ∧ s.tDir = true ∧ k < s.tCnt.toNat)
  | .desel next => decide (s.rseq = .desel ∧ s.pseq = .idle) && txFits s.cfg next
  | .initLines => decide (s.rseq = .idle ∧ s.pseq = .idle ∧ s.pstate = .initializing)
  | .rs _ => decide (s.rseq = .idle ∧ s.pseq = .rs ∧ s.oe = true)
  | .d1 _ => decide (s.rseq = .idle ∧ s.pseq = .d1)
  | .e1h => decide (s.rseq = .idle ∧ s.pseq = .e1h)
  | .w1 => decide (s.rseq = .idle ∧ s.pseq = .w1)
  | .e1l => decide (s.rseq = .idle ∧ s.pseq = .e1l)
  | .d2 _ => decide (s.rseq = .idle ∧ s.pseq = .d2)
  | .e2h => decide (s.rseq = .idle ∧ s.pseq = .e2h)
  | .w2 => decide (s.rseq = .idle ∧ s.pseq = .w2)
  | .e2l => decide (s.rseq = .idle ∧ s.pseq = .e2l)
  | .settle _ _ => decide (s.rseq = .idle ∧ s.pseq = .settle)
  | .finish .setup =>
    decide (s.rseq = .idle ∧ s.pseq = .idle ∧ s.pstate = .initializing ∧ s.oe = true)
  | .finish _ => decide (s.rseq = .idle ∧ s.pseq = .idle ∧ s.pstate ≠ .initializing)

/-- Every phase of the walk is left from where the sequencers stand, none skipped, and the operation ends
with both units idle: "The sequencer never skips a phase" (10_state R44, R52). An idle block has no walk. -/
def walkLegal : List Micro → State → Bool
  | [], s => decide (s.busy = false ∧ s.rseq = .idle ∧ s.pseq = .idle ∧ s.pstate ≠ .initializing)
  | m :: rest, s => s.busy && atPhase m s && walkLegal rest (leave m s)

/-- Chip-select is asserted exactly between leaving R_SEL and leaving R_DESEL (10_state R34, R44). -/
def csOf : RPhase → Bool
  | .idle => false
  | .sel => false
  | .hdr => true
  | .data _ => true
  | .desel => true

/-- Enable is high exactly inside a pulse (10_state R50, R52). -/
def enOf : PPhase → Bool
  | .idle => false
  | .rs => false
  | .d1 => false
  | .e1h => false
  | .w1 => true
  | .e1l => true
  | .d2 => false
  | .e2h => false
  | .w2 => true
  | .e2l => true
  | .settle => false

/-- The invariant of the block. -/
structure State.Inv (s : State) : Prop where
  /-- The parameters meet R7's constraints. -/
  params : s.cfg.ok = true
  /-- The operation in flight walks the phases in order to its end; an idle block is idle in both units. -/
  walks : walkLegal s.walk s = true
  /-- R34. -/
  chipSelect : s.cs = csOf s.rseq
  /-- R50. -/
  enable : s.en = enOf s.pseq
  /-- One operation in flight over the whole block (R30). -/
  oneUnit : s.rseq = .idle ∨ s.pseq = .idle
  /-- Lines are outputs once SETUP has run (R46, R49). -/
  readyDriven : s.pstate = .ready → s.oe = true
  /-- Lines are not outputs before SETUP (R49). -/
  drivenSetUp : s.oe = true → s.pstate ≠ .uninitialized
  /-- In nibble mode DB[3:0] stay 0 from SETUP on (R51). -/
  lowLines : s.oe = true → s.nibble = true → s.db.extractLsb' 0 4 = 0
  /-- "`t_mb = 1` exactly when `t_dir = 1` and `t_cnt > 1`" (R35). -/
  multiByte : s.tMb = (s.tDir && multiByteBit s.tCnt)
  /-- A transaction fits MAX_COUNT (R147). -/
  countFits : s.tCnt.toNat ≤ s.cfg.maxCount
  /-- PB is in canonical form. -/
  pbWf : memWf s.pb = true
  /-- PB has no byte at or above PB_SIZE (R38). -/
  pbBelow : memBelow s.cfg.pbSize s.pb = true

/-- Where a bus trace stands inside a frame. -/
inductive FramePos where
  | outside
  | afterSelect
  | inWrite (sent : Nat)
  | inRead (multi : Bool) (got : Nat)
deriving DecidableEq, Repr

/-- The events of a trace obey the framing of 20_memory R86 and 30_encoding R105 to R109: one CS(1), a header
that is not 01aaaaaa, one data byte for a write, one for a single-byte read, at least two for a multi-byte
read, FILL being sent while reading, one CS(0); no display event inside a frame. -/
def framed (fill : Byte) : FramePos → List Event → Bool
  | .outside, [] => true
  | .outside, .cs true :: rest => framed fill .afterSelect rest
  | .outside, .cs false :: _ => false
  | .outside, .xfer _ _ :: _ => false
  | .outside, _ :: rest => framed fill .outside rest
  | .afterSelect, .xfer t _ :: rest =>
    if t.getLsbD 7 then framed fill (.inRead (t.getLsbD 6) 0) rest
    else !t.getLsbD 6 && framed fill (.inWrite 0) rest
  | .afterSelect, _ => false
  | .inWrite n, .xfer _ _ :: rest => decide (n = 0) && framed fill (.inWrite 1) rest
  | .inWrite n, .cs false :: rest => decide (n = 1) && framed fill .outside rest
  | .inWrite _, _ => false
  | .inRead m n, .xfer t _ :: rest => decide (t = fill) && framed fill (.inRead m (n + 1)) rest
  | .inRead m n, .cs false :: rest =>
    (if m then decide (2 ≤ n) else decide (n = 1)) && framed fill .outside rest
  | .inRead _ _, _ => false

/-- Where a display trace stands inside the transfer of one byte; the number counts the byte's data writes. -/
inductive BytePos where
  | between
  | selected
  | loaded (k : Nat)
  | high (k : Nat)
  | held (k : Nat)
  | fallen (k : Nat)
deriving DecidableEq, Repr

/-- Data writes, and pulses, per byte in each mode (30_encoding R114). -/
def writesPerByte (nibble : Bool) : Nat := if nibble then 2 else 1

/-- The events of a trace obey the byte transfer of 42_display R180, R183 and 70_reset R292, R293:
register-select once, then one (byte mode) or two (nibble mode) data writes each followed by a whole enable
pulse, then one settle delay; nothing changes while enable is high. -/
def pulsed (nibble : Bool) : BytePos → List Event → Bool
  | .between, [] => true
  | .between, .rs _ :: rest => pulsed nibble .selected rest
  | .between, .initLines :: rest => pulsed nibble .between rest
  | .between, .cs _ :: rest => pulsed nibble .between rest
  | .between, .xfer _ _ :: rest => pulsed nibble .between rest
  | .between, _ => false
  | .selected, .dbf _ :: rest => !nibble && pulsed nibble (.loaded 1) rest
  | .selected, .dbh _ :: rest => nibble && pulsed nibble (.loaded 1) rest
  | .selected, _ => false
  | .loaded k, .en true :: rest => pulsed nibble (.high k) rest
  | .loaded _, _ => false
  | .high k, .dly .pulse :: rest => pulsed nibble (.held k) rest
  | .high _, _ => false
  | .held k, .en false :: rest => pulsed nibble (.fallen k) rest
  | .held _, _ => false
  | .fallen k, .dbh _ :: rest => nibble && decide (k = 1) && pulsed nibble (.loaded 2) rest
  | .fallen k, .dly .short :: rest => decide (k = writesPerByte nibble) && pulsed nibble .between rest
  | .fallen k, .dly .long :: rest => decide (k = writesPerByte nibble) && pulsed nibble .between rest
  | .fallen _, _ => false

/-- A receiver on the display lines: levels it sees and a high nibble already latched. -/
structure Receiver where
  select : Bool
  lines : Byte
  pending : Option Nibble
deriving DecidableEq, Repr

/-- The bytes a receiver latches at the falling edges of enable (42_display R180), pairing nibbles, high
first, in nibble mode (20_memory R78). -/
def latched (nibble : Bool) : Receiver → List Event → List DisplayByte
  | _, [] => []
  | r, .rs l :: rest => latched nibble { r with select := l } rest
  | r, .dbf v :: rest => latched nibble { r with lines := v } rest
  | r, .dbh n :: rest => latched nibble { r with lines := n ++ r.lines.extractLsb' 0 4 } rest
  | r, .en false :: rest =>
    if nibble then
      match r.pending with
      | none => latched nibble { r with pending := some (r.lines.extractLsb' 4 4) } rest
      | some h =>
        ⟨h ++ r.lines.extractLsb' 4 4, if r.select then .data else .command⟩ ::
          latched nibble { r with pending := none } rest
    else
      ⟨r.lines, if r.select then .data else .command⟩ :: latched nibble r rest
  | r, .en true :: rest => latched nibble r rest
  | r, .cs _ :: rest => latched nibble r rest
  | r, .xfer _ _ :: rest => latched nibble r rest
  | r, .initLines :: rest => latched nibble r rest
  | r, .dly _ :: rest => latched nibble r rest

/-- The events of SEND (42_display R183, 30_encoding R114, R115). -/
def sendEvents (nibble : Bool) (b : DisplayByte) : List Event :=
  if nibble then
    [.rs (rsLevel b.target),
     .dbh (b.value.extractLsb' 4 4), .en true, .dly .pulse, .en false,
     .dbh (b.value.extractLsb' 0 4), .en true, .dly .pulse, .en false,
     .dly (settleClass b)]
  else
    [.rs (rsLevel b.target), .dbf b.value, .en true, .dly .pulse, .en false, .dly (settleClass b)]

/-- The data lines after SEND (10_state R51): the whole byte, or the low nibble on DB[7:4] with DB[3:0] kept. -/
def linesAfterSend (nibble : Bool) (db value : Byte) : Byte :=
  if nibble then value.extractLsb' 0 4 ++ db.extractLsb' 0 4 else value

/-- The register-select level after a sequence of display bytes (10_state R50). -/
def selectAfterSends (rs : Bool) (bytes : List DisplayByte) : Bool :=
  bytes.foldl (fun _ b => rsLevel b.target) rs

/-- The data lines after a sequence of display bytes (10_state R51). -/
def linesAfterSends (nibble : Bool) (db : Byte) (bytes : List DisplayByte) : Byte :=
  bytes.foldl (fun d b => linesAfterSend nibble d b.value) db

/-- The state after a display operation that sent `bytes` from `s`: its events, the levels it leaves, both the
operation and the PDD sequencer at rest. -/
def State.afterSends (s : State) (bytes : List DisplayByte) : State :=
  { s with
    trace := s.trace ++ bytes.flatMap (sendEvents s.nibble)
    rs := selectAfterSends s.rs bytes
    en := false
    db := linesAfterSends s.nibble s.db bytes
    busy := false
    pseq := .idle
    walk := [] }

/-- The write frame of 30_encoding R107, whose header is exchange number k from `s` on. -/
def State.writeFrame (s : State) (k : Nat) (addr : RegAddr) (byte : Byte) : List Event :=
  [.cs true, .xfer (headerWord false false addr) (s.answer k), .xfer byte (s.answer (k + 1)), .cs false]

/-- The read frame of 30_encoding R108 for `count` bytes, whose header is exchange number k from `s` on. -/
def State.readFrame (s : State) (k : Nat) (addr : RegAddr) (count : Nat) : List Event :=
  [.cs true, .xfer (headerWord true (decide (1 < count)) addr) (s.answer k)] ++
  (List.range count).map (fun j => .xfer s.cfg.fill (s.answer (k + 1 + j))) ++ [.cs false]

/-- The state after a bus operation that exchanged `n` bytes from `s` on with these events: chip-select
deasserted, both the operation and the RBC sequencer at rest. -/
def State.afterFrames (s : State) (n : Nat) (events : List Event) : State :=
  { s with
    trace := s.trace ++ events
    busIn := s.busIn.drop n
    xfers := s.xfers + n
    busy := false
    cs := false
    rseq := .idle
    walk := [] }

/-- The bits of a host command word that matter to its operation: the operation code, and the operand bits that
R101 does not mark "ignored" (R102); a reserved code has no operand (R103). -/
def usedBits (op : BitVec 4) : HostWord :=
  match op.toNat with
  | 0x1 => 0b1111_11111111_11111111
  | 0x2 => 0b1111_11111111_11111111
  | 0x8 => 0b1111_00000001_00000000
  | 0x9 => 0b1111_11111111_00000001
  | 0xA => 0b1111_11111111_11111111
  | 0xC => 0b1111_11111111_00000000
  | _ => 0b1111_00000000_00000000

/-- The operations the host can issue: the twelve of 00_scope R14 (not the reserved codes, not the internal rows). -/
def isOperation : Instr → Bool
  | .wrreg _ _ => true
  | .rdreg _ _ => true
  | .idcheck => true
  | .activate => true
  | .sample => true
  | .setup _ => true
  | .wrbyte _ _ => true
  | .movecur _ _ => true
  | .wrstr => true
  | .ldglyph _ => true
  | .showcur => true
  | .hidecur => true
  | .reserved0 => false
  | .reserved6 => false
  | .reserved7 => false
  | .reservedF => false
  | .hdrWrite _ => false
  | .hdrRead1 _ => false
  | .hdrReadN _ => false
  | .hdrReserved _ => false
  | .cmdClear => false
  | .cmdHome => false
  | .cmdEntry => false
  | .cmdDispOff => false
  | .cmdDispOn => false
  | .cmdInit4 => false
  | .cmdInit8 => false
  | .cmdSetGlyphAddr _ => false
  | .cmdSetCursor _ => false
  | .dataByte _ => false

/-- The display operations other than SETUP (42_display R194). -/
def needsReady : Instr → Bool
  | .wrbyte _ _ => true
  | .movecur _ _ => true
  | .wrstr => true
  | .ldglyph _ => true
  | .showcur => true
  | .hidecur => true
  | _ => false

/-- The rows of the Register Bus Client: operations 0x1 to 0x5 and the header rows (30_encoding R101, R109). -/
def isBusRow : Instr → Bool
  | .wrreg _ _ => true
  | .rdreg _ _ => true
  | .idcheck => true
  | .activate => true
  | .sample => true
  | .hdrWrite _ => true
  | .hdrRead1 _ => true
  | .hdrReadN _ => true
  | .hdrReserved _ => true
  | _ => false

/-- The display byte rows (30_encoding R111 to R113, R122). -/
def isDisplayByteRow : Instr → Bool
  | .cmdClear => true
  | .cmdHome => true
  | .cmdEntry => true
  | .cmdDispOff => true
  | .cmdDispOn => true
  | .cmdInit4 => true
  | .cmdInit8 => true
  | .cmdSetGlyphAddr _ => true
  | .cmdSetCursor _ => true
  | .dataByte _ => true
  | _ => false

/-- The rows of the Parallel Display Driver: operations 0x8 to 0xE and the display byte rows. -/
def isDisplayRow : Instr → Bool
  | .setup _ => true
  | i => needsReady i || isDisplayByteRow i

/-- The rows that write PB (20_memory R75; 30_encoding R108 for the read headers). -/
def writesPb : Instr → Bool
  | .rdreg _ _ => true
  | .sample => true
  | .hdrRead1 _ => true
  | .hdrReadN _ => true
  | _ => false

end Sys2Proof.Machine
end

