-- ==== Sys2Proof/Certificates/Slice0/Obligations.lean ====
section
/-!
DEFINITION. The statements for the provers, from the numbered rules of spec/. In a statement `s.answer k` is the byte
the bus returns k exchanges from `s` on: a free value (00_scope R10, log 3). A result names the WHOLE next state, so
it is the instruction's frame too: what it does not name is as in `s`. The fields `busIn`, `xfers`, `inputs`, `walk`,
`hasSample`, `hasId`, `hasPwr` are the model's own (logs 2, 3, 5, 9).
-/

open Sys2Proof Sys2Proof.Machine

/-! ### Encoding -/

/-- Words of 95_test_vectors 2.1 and 2.2 and of the table's 8-bit rows decode as written there. The host command
word is the spec's decision D3; which layer a bare byte belongs to is the model's choice (log 7), so bytes are given
with their layer here. The words with bits that no operand uses decode by decision D36. -/
def Obligations.SpecWordsDecode : Prop :=
  decodeTableWord 24 0x12D08 = some (.wrreg 0x2D 0x08) ∧
  decodeTableWord 24 0x23206 = some (.rdreg 0x32 6) ∧
  decodeTableWord 24 0x3FFFF = some .idcheck ∧
  decodeTableWord 24 0x8FE55 = some (.setup false) ∧
  decodeTableWord 24 0x8FF00 = some (.setup true) ∧
  decodeTableWord 24 0x9A501 = some (.wrbyte 0xA5 .data) ∧
  decodeTableWord 24 0x9A5FE = some (.wrbyte 0xA5 .command) ∧
  decodeTableWord 24 0xA0105 = some (.movecur 1 5) ∧
  decodeTableWord 24 0xC0100 = some (.ldglyph 1) ∧
  decodeTableWord 24 0x7ABCD = some .reserved7 ∧
  decode (.bus 0xF2) = .ok (.hdrReadN 0x32) ∧
  decode (.bus 0xAD) = .ok (.hdrRead1 0x2D) ∧
  decode (.command 0x48) = .ok (.cmdSetGlyphAddr 1) ∧
  decode (.command 0xE7) = .ok (.cmdSetCursor 0x67) ∧
  decode (.command 0x0F) = .ok .cmdDispOn ∧
  decode (.data 0x01) = .ok (.dataByte 0x01)

/-- Decode and encode agree on every well-formed instruction (30_encoding R100, R101, R105, R109, R111 to R113, R122):
no bit of an encoding is dropped. The codes of the host word are decision D3, and a word comes with its layer (log 7). -/
def Obligations.DecodeOfEncode : Prop :=
  ∀ i : Instr, i.wellFormed = true → decode (encode i) = .ok i

/-- Ignored bits do not matter and no other bit is ignored (R101 to R103, decisions D3, D36, D37): every host word decodes
to a well-formed instruction whose encoding is the word with its ignored bits cleared, and two words decode alike exactly
when they agree on the operation code and on the operand bits it uses. -/
def Obligations.IgnoredBitsDoNotMatter : Prop :=
  (∀ w : HostWord, (decodeHost w).wellFormed = true ∧ decode (encode (decodeHost w)) = .ok (decodeHost w) ∧
    encode (decodeHost w) = .host (w &&& usedBits (hostOp w))) ∧
  (∀ v w : HostWord, decode (.host v) = decode (.host w) ↔
    v &&& usedBits (hostOp v) = w &&& usedBits (hostOp w))

/-- The header byte: the two OR formulas of R106 with its multi-byte bit, and the fields of R105 at their bits. -/
def Obligations.HeaderByteLayout : Prop :=
  (∀ count : Byte, multiByteBit count = true ↔ 1 < count.toNat) ∧
  ∀ (dir mb : Bool) (addr : RegAddr),
    headerByte false false addr = 0x00 ||| addr.setWidth 8 ∧
    headerByte true mb addr = 0x80 ||| ((if mb then 1 else 0) <<< 6) ||| addr.setWidth 8 ∧
    (headerByte dir mb addr).getLsbD 7 = dir ∧ (headerByte dir mb addr).getLsbD 6 = mb ∧
    (headerByte dir mb addr).extractLsb' 0 6 = addr

/-! ### The step -/

/-- A step that takes an issued word is `exec` of the decoded instruction, the move being used up; a byte handed to a
sequencer by itself (the model's own move, log 8) likewise. A step that takes a begun word is `beginOp` of it, and a step
in which a primitive returns is `tick` while phases are left (R44, R52; logs 1, 2, 34); with none left no primitive runs. -/
def Obligations.StepRunsDecoded : Prop :=
  (∀ (s : State) (w : HostWord) (rest : List Move) (i : Instr),
    s.inputs = .issue w :: rest → decode (.host w) = .ok i → step s = exec i { s with inputs := rest }) ∧
  (∀ (s : State) (e : Encoded) (rest : List Move) (i : Instr),
    s.inputs = .internal e :: rest → decode e = .ok i → step s = exec i { s with inputs := rest }) ∧
  (∀ (s : State) (w : HostWord) (rest : List Move) (i : Instr),
    s.inputs = .start w :: rest → decode (.host w) = .ok i → step s = beginOp i { s with inputs := rest }) ∧
  (∀ (s : State) (rest : List Move), s.inputs = .ret :: rest →
    (s.walk ≠ [] → step s = .next (tick { s with inputs := rest })) ∧
    (s.walk = [] → step s = .refused .noPrimitive))

/-- Without a move nothing changes: an idle block waits (R44), and a block whose primitive does not return stays in
its phase with busy = 1, neither a fault nor a completion (R253 (a), decision D40); the event of a phase not yet left
is not on the trace, which for the PDD phases is the model's choice (log 34). -/
def Obligations.WaitsWithoutAMove : Prop :=
  ∀ s : State, s.inputs = [] → step s = .next s

/-- The two views of an operation agree: run whole by `exec`, or begun and then left phase by phase, each phase of
R44 and R52 by one return of its primitive (R89, R120). The two views are the model's choice (log 1), and so are the
phases that R44 and R52 do not list: SETUP's INIT_LINES (log 37) and the completion (log 9). -/
def Obligations.ExecIsThePhasesInOrder : Prop :=
  ∀ (i : Instr) (s s1 : State), beginOp i s = .next s1 → s1.busy = true →
    exec i s = .next (Nat.iterate tick s1.walk.length s1)

/-- An operation in flight stays in flight until its last phase and then leaves both units idle; nothing but its own
phases lies between (R30, R44, R52, R291; the completion as a phase of its own is log 9, INIT_LINES as one log 37). -/
def Obligations.InFlightUntilItsEnd : Prop :=
  ∀ s : State, s.Inv →
    (∀ k, k < s.walk.length → (Nat.iterate tick k s).busy = true) ∧
    (Nat.iterate tick s.walk.length s).busy = false ∧
    (Nat.iterate tick s.walk.length s).rseq = .idle ∧
    (Nat.iterate tick s.walk.length s).pseq = .idle

/-- While busy = 1 no operation is accepted, PB is not the host's, and no internal row runs: no step (R245 step 1, R253
(b) and (c), R300; decisions D2, D5; log 16; rows run by themselves: log 8). -/
def Obligations.BusyHasNoMove : Prop :=
  ∀ s : State, s.busy = true →
    (∀ i, ∃ r, exec i s = .refused r ∧ (isOperation i = true → r = .busy)) ∧
    (∀ i, ∃ r, beginOp i s = .refused r ∧ (isOperation i = true → r = .busy)) ∧
    (∀ k v, takeMove (.writePb k v) s = .refused .busy)

/-- The values R281 gives at reset (decision D30), and that the host reads no value where R281 gives none (the
bits that say so are log 5). -/
def Obligations.ResetValues : Prop :=
  State.reset.busy = false ∧ State.reset.status = .ok ∧ State.reset.nread = 0 ∧ State.reset.halted = false ∧
  (∀ i, State.reset.pbAt i = none) ∧ State.reset.cs = false ∧ State.reset.rseq = .idle ∧
  State.reset.pstate = .uninitialized ∧ State.reset.oe = false ∧ State.reset.pseq = .idle ∧
  State.reset.cfg = Config.params ∧
  (∀ r, r = .x ∨ r = .y ∨ r = .z ∨ r = .idval ∨ r = .pwrval ∨ r = .nibble ∨ r = .cursor →
    State.reset.hostRead r = .noValue)

/-- Reset is taken in any state, an operation in flight included, and puts every element at its reset value at once;
no event is emitted and the parameters stay (R280, R281, R283; decision D30; the record of the trace is log 20, and that
a phase cut by reset leaves no event on it is log 34). To t_dir, t_addr, t_mb, t_cnt, the operand byte, X, Y, Z, idval,
pwrval, nibble, cursor, RS, EN and DB R281 gives no value: the zeros they take here are the model's stand-in (log 5,
DESIGN CHOICE, unsafe), and the bits hasSample, hasId and hasPwr are its own (log 5). -/
def Obligations.ResetAtAnyTime : Prop :=
  ∀ (s : State) (rest : List Move), s.inputs = .reset :: rest →
    step s = .next { State.reset with
      cfg := s.cfg, inputs := rest, busIn := s.busIn, xfers := s.xfers, trace := s.trace }

/-- The invariant holds right after reset (R281). Its clauses about EN (EN = 0) and the transaction registers (t_mb against
t_dir and t_cnt, t_cnt against MAX_COUNT) hold there by the zeros the model gives these registers (log 5, DESIGN CHOICE,
unsafe), since R281 gives them no value; that the parameters are admissible is log 4. -/
def Obligations.ResetMeetsTheInvariant : Prop := State.reset.Inv

/-- Every step keeps the invariant: parameters admissible, phases walked in order, chip-select exactly inside a frame
(R34), enable exactly inside a pulse (R50), one operation in flight (R30), DB[3:0] = 0 in nibble mode (R51), t_mb as
R35 says, PB canonical and inside PB_SIZE (R38). It rests on choices of the model: in which phases EN is high (P_W1, P_E1L,
P_W2, P_E2L) on a phase acting when it is left (log 34, DESIGN CHOICE; R52 says only "action"); DB[3:0] = 0 in nibble mode
on DB[7:4] being the nibble lines (decision D17; log 11, PRESUMED); the completion and
INIT_LINES as phases of their own on logs 9 and 37; rows run by themselves on log 8; the
step that takes reset on the zeros of log 5 (DESIGN CHOICE, unsafe). -/
def Obligations.StepKeepsTheInvariant : Prop :=
  ∀ s t : State, s.Inv → step s = .next t → t.Inv

/-! ### The Register Bus Client -/

/-- WRREG (R140): its host word; the write frame, (OK, 0), nothing else; and its errors. -/
def Obligations.WrregRule : Prop :=
  (∀ w : HostWord, hostOp w = 0b0001 → decode (.host w) = .ok (.wrreg (hostA w).toNat (hostB w))) ∧
  ∀ (s : State) (address : Nat) (byte : Byte), s.busy = false →
    (s.halted = false → address ≤ 0x3F →
      exec (.wrreg address byte) s = .next
        { s.afterFrames 2 (s.writeFrame 0 (BitVec.ofNat 6 address) byte) with
          tDir := false, tAddr := BitVec.ofNat 6 address, tMb := false, tCnt := 1, tByte := byte
          status := .ok, nread := 0 }) ∧
    (s.halted = false → 0x3F < address →
      exec (.wrreg address byte) s = .next { s with status := .invalidArgument, nread := 0 }) ∧
    (s.halted = true → exec (.wrreg address byte) s = .next { s with status := .halted, nread := 0 })

/-- RDREG (R143): its host word, whose count is 0 to 255; the read frame, PB[k] the k-th byte returned and every other PB
byte as before, (OK, count); and its errors. That all count bytes arrive and nread is count rests on decision D8 (R144,
conflict C3; log 15, DEDUCED). -/
def Obligations.RdregRule : Prop :=
  (∀ w : HostWord, hostOp w = 0b0010 →
    decode (.host w) = .ok (.rdreg (hostA w).toNat (hostB w).toNat)) ∧
  ∀ (s : State) (address count : Nat), s.busy = false →
    (s.halted = false → 1 ≤ count → count ≤ 255 → count ≤ s.cfg.maxCount → address ≤ 0x3F →
      ∃ m, exec (.rdreg address count) s = .next
          { s.afterFrames (1 + count) (s.readFrame 0 (BitVec.ofNat 6 address) count) with
            tDir := true, tAddr := BitVec.ofNat 6 address, tMb := decide (1 < count)
            tCnt := BitVec.ofNat 8 count, pb := m, status := .ok, nread := BitVec.ofNat 8 count } ∧
        ∀ k, memRead k m = if k < count then some (s.answer (1 + k)) else memRead k s.pb) ∧
    (s.halted = false → count < 1 ∨ s.cfg.maxCount < count ∨ 0x3F < address →
      exec (.rdreg address count) s = .next { s with status := .invalidArgument, nread := 0 }) ∧
    (s.halted = true → exec (.rdreg address count) s = .next { s with status := .halted, nread := 0 })

/-- IDCHECK (R160, R242): one byte read frame at ID_REG into idval; equal to ID_VALUE (OK, 1), else (IdentityMismatch,
1) and halted. PB is not written, and idval keeps the byte (decision D12). That the byte arrives and nread is 1 rests on
decision D8 (log 15, DEDUCED). -/
def Obligations.IdcheckRule : Prop :=
  (∀ w : HostWord, hostOp w = 0b0011 → decode (.host w) = .ok .idcheck) ∧
  ∀ s : State, s.busy = false →
    (s.halted = false → s.answer 1 = s.cfg.idValue →
      exec .idcheck s = .next
        { s.afterFrames 2 (s.readFrame 0 s.cfg.idReg 1) with
          tDir := true, tAddr := s.cfg.idReg, tMb := false, tCnt := 1
          idval := s.answer 1, hasId := true, status := .ok, nread := 1 }) ∧
    (s.halted = false → s.answer 1 ≠ s.cfg.idValue →
      exec .idcheck s = .next
        { s.afterFrames 2 (s.readFrame 0 s.cfg.idReg 1) with
          tDir := true, tAddr := s.cfg.idReg, tMb := false, tCnt := 1
          idval := s.answer 1, hasId := true, halted := true, status := .identityMismatch, nread := 1 }) ∧
    (s.halted = true → exec .idcheck s = .next { s with status := .halted, nread := 0 })

/-- ACTIVATE (R163): read PWR_REG, write it back with MEASURE_BIT set and every other bit kept, and only with
ACT_CONFIRM read it again; (OK, 0) whatever was read (decision D12). That each byte read arrives rests on decision D8
(log 15, DEDUCED); the payload register, and what the transaction registers hold at the end, is log 29. -/
def Obligations.ActivateRule : Prop :=
  (∀ w : HostWord, hostOp w = 0b0100 → decode (.host w) = .ok .activate) ∧
  ∀ s : State, s.busy = false →
    (s.halted = false → s.cfg.actConfirm = false →
      exec .activate s = .next
        { s.afterFrames 4
            (s.readFrame 0 s.cfg.pwrReg 1 ++
              s.writeFrame 2 s.cfg.pwrReg (s.answer 1 ||| ((1 : Byte) <<< s.cfg.measureBit.val))) with
          tDir := false, tAddr := s.cfg.pwrReg, tMb := false, tCnt := 1
          tByte := s.answer 1 ||| ((1 : Byte) <<< s.cfg.measureBit.val)
          pwrval := s.answer 1, hasPwr := true, status := .ok, nread := 0 }) ∧
    (s.halted = false → s.cfg.actConfirm = true →
      exec .activate s = .next
        { s.afterFrames 6
            (s.readFrame 0 s.cfg.pwrReg 1 ++
              s.writeFrame 2 s.cfg.pwrReg (s.answer 1 ||| ((1 : Byte) <<< s.cfg.measureBit.val)) ++
              s.readFrame 4 s.cfg.pwrReg 1) with
          tDir := true, tAddr := s.cfg.pwrReg, tMb := false, tCnt := 1
          tByte := s.answer 1 ||| ((1 : Byte) <<< s.cfg.measureBit.val)
          pwrval := s.answer 5, hasPwr := true, status := .ok, nread := 0 }) ∧
    (s.halted = true → exec .activate s = .next { s with status := .halted, nread := 0 })

/-- SAMPLE (R166): one six byte burst at DATA_BASE into PB[0..5], X, Y, Z the little-endian pairs in order, (OK, 6). That
all six bytes arrive and nread is 6 rests on decision D8 (93 U6; log 15, DEDUCED). -/
def Obligations.SampleRule : Prop :=
  (∀ w : HostWord, hostOp w = 0b0101 → decode (.host w) = .ok .sample) ∧
  ∀ s : State, s.busy = false →
    (s.halted = false →
      ∃ m, exec .sample s = .next
          { s.afterFrames 7 (s.readFrame 0 s.cfg.dataBase 6) with
            tDir := true, tAddr := s.cfg.dataBase, tMb := true, tCnt := 6, pb := m
            x := s.answer 2 ++ s.answer 1, y := s.answer 4 ++ s.answer 3, z := s.answer 6 ++ s.answer 5
            hasSample := true, status := .ok, nread := 6 } ∧
        ∀ k, memRead k m = if k < 6 then some (s.answer (1 + k)) else memRead k s.pb) ∧
    (s.halted = true → exec .sample s = .next { s with status := .halted, nread := 0 })

/-- The signed value of an assembled sample (R121 (f), R76): high * 256 + low, less 65536 from high = 0x80 on. -/
def Obligations.SampleWordIsSigned : Prop :=
  ∀ low high : Byte, (sampleWord low high).toInt =
    if high.toNat < 0x80 then ((high.toNat * 256 + low.toNat : Nat) : Int)
    else ((high.toNat * 256 + low.toNat : Nat) : Int) - 65536

/-- The header rows (R107 to R109) run their whole frame: 00 with the payload byte held, 10 with one byte into PB[0], 11
with the multi-byte count held, into PB. Running a row by itself is the model's choice (log 8); status and nread stay.
That every byte asked for arrives rests on decision D8 (log 15, DEDUCED); the payload register is log 29. -/
def Obligations.HeaderRowsRun : Prop :=
  ∀ (s : State) (addr : RegAddr), s.busy = false → s.halted = false →
    exec (.hdrWrite addr) s = .next
      { s.afterFrames 2 (s.writeFrame 0 addr s.tByte) with
        tDir := false, tAddr := addr, tMb := false, tCnt := 1 } ∧
    exec (.hdrRead1 addr) s = .next
      { s.afterFrames 2 (s.readFrame 0 addr 1) with
        tDir := true, tAddr := addr, tMb := false, tCnt := 1, pb := memWrite 0 (s.answer 1) s.pb } ∧
    (1 < s.tCnt.toNat →
      ∃ m, exec (.hdrReadN addr) s = .next
          { s.afterFrames (1 + s.tCnt.toNat) (s.readFrame 0 addr s.tCnt.toNat) with
            tDir := true, tAddr := addr, tMb := true, pb := m } ∧
        ∀ k, memRead k m = if k < s.tCnt.toNat then some (s.answer (1 + k)) else memRead k s.pb) ∧
    (s.tCnt.toNat ≤ 1 → exec (.hdrReadN addr) s = .refused .noMultiByteCount)

/-- The header 01aaaaaa is reserved and never emitted (R109). That its row, handed over by itself, therefore stops in every
state is the model's inference (log 32, DEDUCED); that a row can be run by itself at all is its choice (log 8). -/
def Obligations.ReservedHeaderStops : Prop :=
  ∀ (s : State) (addr : RegAddr), exec (.hdrReserved addr) s = .refused .reservedHeader

/-! ### The Parallel Display Driver -/

/-- SETUP (R188; register-select levels, line numbers and one settle delay per byte by decisions D15, D17, D19, D20, logs
10, 11, 28): the mode, INIT_LINES, home and interface init by mode, clear, display-on, entry, then cursor = 1 and
Ready, (OK, 0); home in byte mode as BYTE_SETUP_HOME says; and its errors. INIT_LINES as one event is decision D38 (log 18). -/
def Obligations.SetupRule : Prop :=
  (∀ w : HostWord, hostOp w = 0b1000 → decode (.host w) = .ok (.setup ((hostA w).getLsbD 0))) ∧
  ∀ (s : State) (nibbleMode : Bool), s.busy = false →
    (s.halted = false → s.pstate = .uninitialized →
      exec (.setup nibbleMode) s = .next
        { State.afterSends
            { s with trace := s.trace ++ [.initLines], nibble := nibbleMode, oe := true
                     rs := false, en := false, db := 0 }
            ((if nibbleMode then [⟨0x02, .command⟩, ⟨0x28, .command⟩]
              else if s.cfg.byteSetupHome then [⟨0x02, .command⟩, ⟨0x38, .command⟩]
              else [⟨0x38, .command⟩]) ++
             [⟨0x01, .command⟩, ⟨0x0F, .command⟩, ⟨0x06, .command⟩]) with
          cursor := true, pstate := .ready, status := .ok, nread := 0 }) ∧
    (s.halted = false → s.pstate ≠ .uninitialized →
      exec (.setup nibbleMode) s = .next { s with status := .badState, nread := 0 }) ∧
    (s.halted = true → exec (.setup nibbleMode) s = .next { s with status := .halted, nread := 0 })

/-- WRBYTE (R193; register-select levels, line numbers and one settle delay per byte by decisions D15, D17, D19, D20, logs
10, 11, 28): SEND of the byte, (OK, 0), cursor not updated; and its errors. -/
def Obligations.WrbyteRule : Prop :=
  (∀ w : HostWord, hostOp w = 0b1001 → decode (.host w) = .ok (.wrbyte (hostA w) (if (hostB w).getLsbD 0 then .data else .command))) ∧
  ∀ (s : State) (byte : Byte) (target : Target), s.busy = false →
    (s.halted = false → s.pstate = .ready →
      exec (.wrbyte byte target) s = .next
        { s.afterSends [⟨byte, target⟩] with status := .ok, nread := 0 }) ∧
    (s.halted = false → s.pstate ≠ .ready →
      exec (.wrbyte byte target) s = .next { s with status := .badState, nread := 0 }) ∧
    (s.halted = true → exec (.wrbyte byte target) s = .next { s with status := .halted, nread := 0 })

/-- MOVECUR (R210, R211; levels, line numbers and settle delays as in WRBYTE): for a row below ROWS and a column below COLS exactly one command byte, the row's base plus the
column, which does not carry out of eight bits; for any other position no event and OutOfRange; and its errors. The
parameters meet R7's constraints. -/
def Obligations.MovecurRule : Prop :=
  (∀ w : HostWord, hostOp w = 0b1010 → decode (.host w) = .ok (.movecur (hostA w).toNat (hostB w).toNat)) ∧
  ∀ (s : State) (row col : Nat), s.busy = false → s.cfg.ok = true →
    (s.halted = false → s.pstate = .ready → row < s.cfg.rows → col < s.cfg.cols →
      ∃ base : Byte, ([0x80, 0xC0, 0x94, 0xD4] : List Byte)[row]? = some base ∧
        (base + BitVec.ofNat 8 col).toNat = base.toNat + col ∧
        exec (.movecur row col) s = .next
          { s.afterSends [⟨base + BitVec.ofNat 8 col, .command⟩] with status := .ok, nread := 0 }) ∧
    (s.halted = false → s.pstate = .ready → s.cfg.rows ≤ row ∨ s.cfg.cols ≤ col →
      exec (.movecur row col) s = .next { s with status := .outOfRange, nread := 0 }) ∧
    (s.halted = false → s.pstate ≠ .ready →
      exec (.movecur row col) s = .next { s with status := .badState, nread := 0 }) ∧
    (s.halted = true → exec (.movecur row col) s = .next { s with status := .halted, nread := 0 })

/-- WRSTR (R213; levels, line numbers and settle delays as in WRBYTE): the bytes PB[0 .. COLS-1] in ascending order as data, (OK, 0), PB unchanged; a byte with no value
faults before any event (decision D27, log 6); and its errors. The bytes are taken at the acceptance (log 33). -/
def Obligations.WrstrRule : Prop :=
  (∀ w : HostWord, hostOp w = 0b1011 → decode (.host w) = .ok .wrstr) ∧
  ∀ (s : State) (bytes : List Byte), s.busy = false → 1 ≤ s.cfg.cols →
    (s.halted = false → s.pstate = .ready → bytes.length = s.cfg.cols →
      (∀ k, k < s.cfg.cols → s.pbAt k = bytes[k]?) →
      exec .wrstr s = .next
        { s.afterSends (bytes.map (fun v => ⟨v, .data⟩)) with status := .ok, nread := 0 }) ∧
    (s.halted = false → s.pstate = .ready → (∃ k, k < s.cfg.cols ∧ s.pbAt k = none) →
      ∃ k, k < s.cfg.cols ∧ s.pbAt k = none ∧ exec .wrstr s = .fault (.pbNoValue k)) ∧
    (s.halted = false → s.pstate ≠ .ready →
      exec .wrstr s = .next { s with status := .badState, nread := 0 }) ∧
    (s.halted = true → exec .wrstr s = .next { s with status := .halted, nread := 0 })

/-- LDGLYPH (R216, R217; levels, line numbers and settle delays as in WRBYTE): 0x40 + 8 * slot as a command, then exactly PB[0], ..., PB[7] as data, (OK, 0), PB unchanged;
slot 8 and above OutOfRange with no event; a byte with no value faults before any event (decision D27, log 6); and its errors. The
bytes are taken at the acceptance (log 33). -/
def Obligations.LdglyphRule : Prop :=
  (∀ w : HostWord, hostOp w = 0b1100 → decode (.host w) = .ok (.ldglyph (hostA w).toNat)) ∧
  ∀ (s : State) (slot : Nat) (glyph : List Byte), s.busy = false →
    (s.halted = false → s.pstate = .ready → slot < 8 → glyph.length = 8 →
      (∀ k, k < 8 → s.pbAt k = glyph[k]?) →
      exec (.ldglyph slot) s = .next
        { s.afterSends (⟨0x40 + 8 * BitVec.ofNat 8 slot, .command⟩ :: glyph.map (fun v => ⟨v, .data⟩)) with
          status := .ok, nread := 0 }) ∧
    (s.halted = false → s.pstate = .ready → 8 ≤ slot →
      exec (.ldglyph slot) s = .next { s with status := .outOfRange, nread := 0 }) ∧
    (s.halted = false → s.pstate = .ready → slot < 8 → (∃ k, k < 8 ∧ s.pbAt k = none) →
      ∃ k, k < 8 ∧ s.pbAt k = none ∧ exec (.ldglyph slot) s = .fault (.pbNoValue k)) ∧
    (s.halted = false → s.pstate ≠ .ready →
      exec (.ldglyph slot) s = .next { s with status := .badState, nread := 0 }) ∧
    (s.halted = true → exec (.ldglyph slot) s = .next { s with status := .halted, nread := 0 })

/-- SHOWCUR sends 0x0F and sets cursor, HIDECUR sends 0x0C and clears it, whatever cursor was (R219, R220; which constant
goes with which operation is the spec's decision D25; levels, line numbers and settle delays as in WRBYTE); and their
errors. -/
def Obligations.CursorVisibilityRule : Prop :=
  (∀ w : HostWord, (hostOp w = 0b1101 → decode (.host w) = .ok .showcur) ∧
    (hostOp w = 0b1110 → decode (.host w) = .ok .hidecur)) ∧
  ∀ s : State, s.busy = false →
    (s.halted = false → s.pstate = .ready →
      exec .showcur s = .next
        { s.afterSends [⟨0x0F, .command⟩] with cursor := true, status := .ok, nread := 0 } ∧
      exec .hidecur s = .next
        { s.afterSends [⟨0x0C, .command⟩] with cursor := false, status := .ok, nread := 0 }) ∧
    (s.halted = false → s.pstate ≠ .ready →
      exec .showcur s = .next { s with status := .badState, nread := 0 } ∧
      exec .hidecur s = .next { s with status := .badState, nread := 0 }) ∧
    (s.halted = true →
      exec .showcur s = .next { s with status := .halted, nread := 0 } ∧
      exec .hidecur s = .next { s with status := .halted, nread := 0 })

/-- Each display byte row is SEND of its byte in the mode in force (R183, R111 to R113), once SETUP has been accepted;
before that it has no step. Running a row by itself is the model's choice (log 8); status and nread stay. Levels, line
numbers and settle delays as in WRBYTE (decisions D15, D17, D19, D20, logs 10, 11, 28). -/
def Obligations.DisplayByteRowsRun : Prop :=
  ∀ s : State, s.busy = false → s.halted = false →
    (s.pstate ≠ .uninitialized →
      exec .cmdClear s = .next (s.afterSends [⟨0x01, .command⟩]) ∧
      exec .cmdHome s = .next (s.afterSends [⟨0x02, .command⟩]) ∧
      exec .cmdEntry s = .next (s.afterSends [⟨0x06, .command⟩]) ∧
      exec .cmdDispOff s = .next (s.afterSends [⟨0x0C, .command⟩]) ∧
      exec .cmdDispOn s = .next (s.afterSends [⟨0x0F, .command⟩]) ∧
      exec .cmdInit4 s = .next (s.afterSends [⟨0x28, .command⟩]) ∧
      exec .cmdInit8 s = .next (s.afterSends [⟨0x38, .command⟩]) ∧
      (∀ slot : BitVec 3, exec (.cmdSetGlyphAddr slot) s = .next
        (s.afterSends [⟨(0b01 : BitVec 2) ++ slot ++ (0b000 : BitVec 3), .command⟩])) ∧
      (∀ position : BitVec 7, exec (.cmdSetCursor position) s = .next
        (s.afterSends [⟨(0b1 : BitVec 1) ++ position, .command⟩])) ∧
      (∀ value : Byte, exec (.dataByte value) s = .next (s.afterSends [⟨value, .data⟩]))) ∧
    (s.pstate = .uninitialized →
      ∀ i : Instr, isDisplayByteRow i = true → exec i s = .refused .sendBeforeSetup)

/-- In a halted block the rows that are no operations have no step (R250; log 8): every display byte row and every header
row but the reserved one, which stops in every state, is
refused. -/
def Obligations.InternalRowsWhenHalted : Prop :=
  ∀ (i : Instr) (s : State), s.busy = false → s.halted = true →
    (isDisplayByteRow i = true → exec i s = .refused .blockHalted) ∧
    (∀ addr, i = .hdrWrite addr ∨ i = .hdrRead1 addr ∨ i = .hdrReadN addr → exec i s = .refused .blockHalted)

/-- The reserved operation codes complete at once with IllegalOp, nread 0, nothing else, halted or not (R103, R245, R250;
decision D37, conflict C10). -/
def Obligations.ReservedCodesAreIllegal : Prop :=
  (∀ w : HostWord, (hostOp w = 0b0000 → decode (.host w) = .ok .reserved0) ∧
    (hostOp w = 0b0110 → decode (.host w) = .ok .reserved6) ∧
    (hostOp w = 0b0111 → decode (.host w) = .ok .reserved7) ∧
    (hostOp w = 0b1111 → decode (.host w) = .ok .reservedF)) ∧
  ∀ s : State, s.busy = false →
    exec .reserved0 s = .next { s with status := .illegalOp, nread := 0 } ∧
    exec .reserved6 s = .next { s with status := .illegalOp, nread := 0 } ∧
    exec .reserved7 s = .next { s with status := .illegalOp, nread := 0 } ∧
    exec .reservedF s = .next { s with status := .illegalOp, nread := 0 }

/-! ### The whole machine -/

/-- An operation that ends in an error other than IdentityMismatch leaves everything but status and nread as it was: no
event, no line, no PB byte (R241, R244, R247, R248; the codes are decision D4). -/
def Obligations.ErrorsLeaveTheHardwareUntouched : Prop :=
  ∀ (i : Instr) (s t : State), isOperation i = true → exec i s = .next t →
    t.status ≠ .ok → t.status ≠ .identityMismatch →
    t = { s with status := t.status, nread := 0 }

/-- The order of the checks (R245, decision D29): halted before everything of an operation, the display state before the
operands and the payload. -/
def Obligations.CheckOrder : Prop :=
  ∀ (i : Instr) (s : State), s.busy = false →
    (isOperation i = true → s.halted = true → exec i s = .next { s with status := .halted, nread := 0 }) ∧
    (needsReady i = true → s.halted = false → s.pstate ≠ .ready →
      exec i s = .next { s with status := .badState, nread := 0 })

/-- Once halted, no move but reset changes more than this: an operation, run or begun, answers Halted (a reserved code
IllegalOp) with nread 0, no event, no line, no register, no PB byte; the host's write of a PB byte writes that byte alone.
A row by itself has no step then (log 8). The block stays halted (R33, R245, R250, R300; decisions D2, D13, D37). -/
def Obligations.HaltIsFinal : Prop :=
  ∀ (s t : State) (m : Move) (rest : List Move), s.halted = true → s.busy = false → s.walk = [] →
    s.inputs = m :: rest → m ≠ .reset → step s = .next t →
    ((∀ k v, m ≠ .writePb k v) → (t.status = .halted ∨ t.status = .illegalOp) ∧
      t = { s with inputs := rest, status := t.status, nread := 0 }) ∧
    (∀ k v, m = .writePb k v → t = { s with inputs := rest, pb := t.pb } ∧
      ∀ j, memRead j t.pb = if j = k then some v else memRead j s.pb)

/-- The mode is set once (R46, R47): from Ready on only reset changes pstate, nibble or oe. -/
def Obligations.ModeIsSetOnce : Prop :=
  ∀ (s t : State), s.pstate = .ready → s.oe = true → (∀ rest, s.inputs ≠ .reset :: rest) →
    step s = .next t → t.pstate = .ready ∧ t.nibble = s.nibble ∧ t.oe = true

/-- Nothing in PPB writes LINEMAP, CS_LINE or any parameter (R53, R7; that reset keeps `cfg` as it is: logs 4, 20). -/
def Obligations.ParametersAreNeverWritten : Prop :=
  ∀ s t : State, step s = .next t → t.cfg = s.cfg

/-- The trace only grows: events stay in the order they were emitted (R11, R89). That reset, too, keeps the record is the
model's choice (log 20, DESIGN CHOICE): no rule says what reset does to it. -/
def Obligations.TraceOnlyGrows : Prop :=
  ∀ s t : State, step s = .next t → ∃ new, t.trace = s.trace ++ new

/-- Every frame of every operation is framed by one CS(1) and one CS(0) (R86), with a header that is not 01aaaaaa, one data
byte for a write or a single-byte read and at least two for a multi-byte read (R105 to R109), FILL sent while reading. Rows run by themselves are log 8. -/
def Obligations.FramesAreWellFormed : Prop :=
  ∀ (i : Instr) (s t : State), s.Inv → s.busy = false → exec i s = .next t →
    ∃ new, t.trace = s.trace ++ new ∧ framed s.cfg.fill .outside new = true

/-- Every display byte of every operation is transferred by R180 and R183: register-select, then per data write a whole
enable pulse with nothing changing while enable is high, one or two by the mode, then one settle delay (R292, R293). That
nibble mode has one settle delay per byte and none between the nibbles is decision D19, conflict C7 (log 28); a data write
and INIT_LINES are one event each by decisions D18, D38 (log 18); rows run by themselves are log 8. -/
def Obligations.PulsesAreWellFormed : Prop :=
  ∀ (i : Instr) (s t : State), s.Inv → s.busy = false → exec i s = .next t →
    ∃ new, t.trace = s.trace ++ new ∧ pulsed t.nibble .between new = true

/-- The mode changes how a byte reaches the lines, not which byte is sent (R114, R78): in both modes a receiver that latches
at the falling edge of enable gets exactly the bytes and targets of each of the seven display operations, in order. The
receiver reads targets off the register-select level and nibbles off DB[7:4] (decisions D15, D17, logs 10, 11). -/
def Obligations.ReceiverGetsTheBytes : Prop :=
  ∀ (s t : State) (r : Receiver), s.busy = false → s.halted = false → r.pending = none →
    (∀ m, s.pstate = .uninitialized → exec (.setup m) s = .next t →
      ∃ new, t.trace = s.trace ++ new ∧ latched m r new =
        (if m then [⟨0x02, .command⟩, ⟨0x28, .command⟩]
         else if s.cfg.byteSetupHome then [⟨0x02, .command⟩, ⟨0x38, .command⟩]
         else [⟨0x38, .command⟩]) ++
        [⟨0x01, .command⟩, ⟨0x0F, .command⟩, ⟨0x06, .command⟩]) ∧
    (s.pstate = .ready →
      (∀ byte target, exec (.wrbyte byte target) s = .next t →
        ∃ new, t.trace = s.trace ++ new ∧ latched s.nibble r new = [⟨byte, target⟩]) ∧
      (∀ row col, s.cfg.ok = true → row < s.cfg.rows → col < s.cfg.cols → exec (.movecur row col) s = .next t →
        ∃ new, t.trace = s.trace ++ new ∧ ∃ base : Byte, ([0x80, 0xC0, 0x94, 0xD4] : List Byte)[row]? = some base ∧
          latched s.nibble r new = [⟨base + BitVec.ofNat 8 col, .command⟩]) ∧
      (1 ≤ s.cfg.cols → exec .wrstr s = .next t →
        ∃ new bytes, t.trace = s.trace ++ new ∧ latched s.nibble r new = bytes ∧ bytes.length = s.cfg.cols ∧
          ∀ k, k < s.cfg.cols → ∃ v, s.pbAt k = some v ∧ bytes[k]? = some ⟨v, .data⟩) ∧
      (∀ slot, slot < 8 → exec (.ldglyph slot) s = .next t →
        ∃ new bytes, t.trace = s.trace ++ new ∧
          latched s.nibble r new = ⟨BitVec.ofNat 8 (0x40 + 8 * slot), .command⟩ :: bytes ∧ bytes.length = 8 ∧
          ∀ k, k < 8 → ∃ v, s.pbAt k = some v ∧ bytes[k]? = some ⟨v, .data⟩) ∧
      (exec .showcur s = .next t →
        ∃ new, t.trace = s.trace ++ new ∧ latched s.nibble r new = [⟨0x0F, .command⟩]) ∧
      (exec .hidecur s = .next t →
        ∃ new, t.trace = s.trace ++ new ∧ latched s.nibble r new = [⟨0x0C, .command⟩]))

/-- The two units share no state (R2): whatever the other unit's registers hold, a row does the same and leaves them
alone. For a display row the other unit is the RBC's registers, the sensor's answers and X, Y, Z; for a bus row the
PDD's registers and lines. The rows are the operations and, by log 8, the rows run by themselves; the fields that are the
model's own (logs 3, 5) go with the unit that uses them. -/
def Obligations.UnitsShareNoState : Prop :=
  (∀ (i : Instr) (s t : State), isDisplayRow i = true → exec i s = .next t →
    ∀ (busIn : List Byte) (xfers : Nat) (dir mb : Bool) (addr : RegAddr) (cnt byte idval pwrval : Byte)
      (x y z : BitVec 16) (cs hs hi hp : Bool) (rseq : RPhase),
      exec i { s with busIn := busIn, xfers := xfers, tDir := dir, tAddr := addr, tMb := mb, tCnt := cnt
                      tByte := byte, idval := idval, pwrval := pwrval, x := x, y := y, z := z, cs := cs
                      hasSample := hs, hasId := hi, hasPwr := hp, rseq := rseq } =
        .next { t with busIn := busIn, xfers := xfers, tDir := dir, tAddr := addr, tMb := mb, tCnt := cnt
                       tByte := byte, idval := idval, pwrval := pwrval, x := x, y := y, z := z, cs := cs
                       hasSample := hs, hasId := hi, hasPwr := hp, rseq := rseq }) ∧
  (∀ (i : Instr) (s t : State), isBusRow i = true → exec i s = .next t →
    ∀ (pstate : PState) (nibble cursor oe rs en : Bool) (db : Byte) (pseq : PPhase),
      exec i { s with pstate := pstate, nibble := nibble, cursor := cursor, oe := oe, rs := rs, en := en
                      db := db, pseq := pseq } =
        .next { t with pstate := pstate, nibble := nibble, cursor := cursor, oe := oe, rs := rs, en := en
                       db := db, pseq := pseq })

/-- Who writes what (R75, R36, R37, R33): PB only by the reads into it, X, Y, Z only by SAMPLE, idval and halted only by
IDCHECK, pwrval only by ACTIVATE, the display state and mode only by SETUP, cursor only by SETUP, SHOWCUR, HIDECUR. The rows
run by themselves are log 8. -/
def Obligations.OnlyTheNamedWriters : Prop :=
  ∀ (i : Instr) (s t : State), exec i s = .next t →
    (writesPb i = false → t.pb = s.pb) ∧
    (i ≠ .sample → t.x = s.x ∧ t.y = s.y ∧ t.z = s.z) ∧
    (i ≠ .idcheck → t.idval = s.idval ∧ t.halted = s.halted) ∧
    (i ≠ .activate → t.pwrval = s.pwrval) ∧
    ((∀ m, i ≠ .setup m) → t.pstate = s.pstate ∧ t.nibble = s.nibble ∧ t.oe = s.oe) ∧
    ((∀ m, i ≠ .setup m) → i ≠ .showcur → i ≠ .hidecur → t.cursor = s.cursor)

/-- A settle delay after clear-display or return-home is strictly longer than after any other byte (R115, R185; that Data
bytes are never slow is decision D20). -/
def Obligations.SlowCommandsSettleLonger : Prop :=
  ∀ (c : Params) (slow other : DisplayByte), c.ok = true →
    slow.target = .command → slow.value = 0x01 ∨ slow.value = 0x02 →
    ¬ (other.target = .command ∧ (other.value = 0x01 ∨ other.value = 0x02)) →
    delayBound c (settleClass other) < delayBound c (settleClass slow)

/-- The counts of R195: one settle delay and one register-select event per byte, one pulse per byte in byte mode and two in
nibble mode; SETUP sends 5 bytes (4 in byte mode without BYTE_SETUP_HOME), LDGLYPH 9, WRSTR COLS. One settle delay per
byte in nibble mode is decision D19, conflict C7 (log 28). -/
def Obligations.PulseAndByteCounts : Prop :=
  ∀ (i : Instr) (s t : State) (new : List Event), s.busy = false → 1 ≤ s.cfg.cols →
    exec i s = .next t → t.status = .ok → t.trace = s.trace ++ new →
    ∀ n, (i = .wrstr ∧ n = s.cfg.cols) ∨ ((∃ slot, i = .ldglyph slot) ∧ n = 9) ∨
        ((∃ m, i = .setup m ∧ n = if m || s.cfg.byteSetupHome then 5 else 4)) ∨
        ((∃ row col, i = .movecur row col) ∧ n = 1) ∨ ((∃ b g, i = .wrbyte b g) ∧ n = 1) ∨
        ((i = .showcur ∨ i = .hidecur) ∧ n = 1) →
      traceSettles new = n ∧ traceSelects new = n ∧
        tracePulses new = if t.nibble then 2 * n else n

/-- The clock periods of R301, and the microseconds they take at the reference rate F_SCLK_REF of R6, a lower bound (log
19): WRREG 16, RDREG 8 + 8 * count, SAMPLE 56. -/
def Obligations.BusClockPeriods : Prop :=
  ∀ (s t : State) (new : List Event), s.busy = false → t.trace = s.trace ++ new → t.status = .ok →
    (∀ address byte, exec (.wrreg address byte) s = .next t → traceClocks new = 16 ∧ busMicrosAtRef new = 16) ∧
    (∀ address count, exec (.rdreg address count) s = .next t →
      traceClocks new = 8 + 8 * count ∧ busMicrosAtRef new = 8 + 8 * count) ∧
    (exec .sample s = .next t → traceClocks new = 56 ∧ busMicrosAtRef new = 56)

/-- The pins (R34, R49, R282; decision D10): chip-select is always driven, asserted at CS_ACTIVE; no display line is driven
before `oe` = 1 (`none`: log 23), and right after reset chip-select is deasserted. -/
def Obligations.PinsAroundReset : Prop :=
  (∀ s : State, s.pinLevel s.cfg.csLine = some (if s.cs then s.cfg.csActive else !s.cfg.csActive)) ∧
  (∀ (s : State) (line : Nat), s.oe = false → line ≠ s.cfg.csLine → s.pinLevel line = none) ∧
  State.reset.pinLevel State.reset.cfg.csLine = some (!State.reset.cfg.csActive)

/-- The host's write of a PB byte while busy = 0 (R38, R300): that byte reads as written, every other as before, nothing else
changes; outside PB_SIZE there is no byte and the model faults (log 21). -/
def Obligations.HostWritesPb : Prop :=
  ∀ (s : State) (k : Nat) (v : Byte) (rest : List Move), s.busy = false → s.inputs = .writePb k v :: rest →
    (k < s.cfg.pbSize →
      ∃ m, step s = .next { s with inputs := rest, pb := m } ∧
        ∀ j, memRead j m = if j = k then some v else memRead j s.pb) ∧
    (s.cfg.pbSize ≤ k → step s = .fault (.pbNoSuchByte k))
end

