-- ==== Sys2Proof/Laws/Memory.lean ====
section
/-!
SUPPORT. The laws of the payload buffer: a read after a write, the canonical form and the bound kept by a
write, and what the payload check answers.
-/

namespace Sys2Proof.Machine

@[simp] theorem memRead_nil (i : Nat) : memRead i [] = none := rfl

@[simp] theorem memRead_cons (i k : Nat) (v : Byte) (m : List Host.Cell) :
    memRead i ((k, v) :: m) = if k = i then some v else memRead i m := rfl

theorem memRead_memWrite_same (i : Nat) (v : Byte) (m : List Host.Cell) :
    memRead i (memWrite i v m) = some v := by
  induction m with
  | nil => simp [memWrite]
  | cons c m ih =>
    obtain ⟨k, u⟩ := c
    simp only [memWrite]
    split
    · next h => simp [ih, Nat.ne_of_lt h]
    · split <;> simp

theorem memRead_memWrite_other {i j : Nat} (h : j ≠ i) (v : Byte) (m : List Host.Cell) :
    memRead j (memWrite i v m) = memRead j m := by
  induction m with
  | nil => simp [memWrite, Ne.symm h]
  | cons c m ih =>
    obtain ⟨k, u⟩ := c
    simp only [memWrite]
    split
    · simp [ih]
    · split
      · next hk => subst hk; simp [Ne.symm h]
      · simp [Ne.symm h]

theorem memRead_memWrite (i j : Nat) (v : Byte) (m : List Host.Cell) :
    memRead j (memWrite i v m) = if j = i then some v else memRead j m := by
  split
  · next h => rw [h, memRead_memWrite_same]
  · next h => exact memRead_memWrite_other h v m

theorem memRisesFrom_weaken {a b : Nat} (h : a ≤ b) {m : List Host.Cell}
    (hm : memRisesFrom b m = true) : memRisesFrom a m = true := by
  cases m with
  | nil => rfl
  | cons c m => simp only [memRisesFrom, Bool.and_eq_true, decide_eq_true_eq] at *; exact ⟨by omega, hm.2⟩

theorem memRisesFrom_memWrite {low i : Nat} (v : Byte) (m : List Host.Cell) (hi : low ≤ i)
    (hm : memRisesFrom low m = true) : memRisesFrom low (memWrite i v m) = true := by
  induction m generalizing low with
  | nil => simp [memWrite, memRisesFrom, hi]
  | cons c m ih =>
    obtain ⟨k, u⟩ := c
    simp only [memRisesFrom, Bool.and_eq_true, decide_eq_true_eq] at hm
    simp only [memWrite]
    split
    · next h => simp only [memRisesFrom, Bool.and_eq_true, decide_eq_true_eq]; exact ⟨hm.1, ih h hm.2⟩
    · split
      · next h => subst h; simp [memRisesFrom, hi, hm.2]
      · next h1 h2 =>
        simp only [memRisesFrom, Bool.and_eq_true, decide_eq_true_eq]
        exact ⟨hi, by omega, hm.2⟩

/-- A write keeps the canonical form. -/
theorem memWf_memWrite (i : Nat) (v : Byte) {m : List Host.Cell} (hm : memWf m = true) :
    memWf (memWrite i v m) = true := memRisesFrom_memWrite v m (Nat.zero_le i) hm

/-- A write inside PB keeps every index inside PB. -/
theorem memBelow_memWrite {size i : Nat} (v : Byte) {m : List Host.Cell} (hi : i < size)
    (hm : memBelow size m = true) : memBelow size (memWrite i v m) = true := by
  induction m with
  | nil => simp [memWrite, memBelow, hi]
  | cons c m ih =>
    obtain ⟨k, u⟩ := c
    simp only [memBelow, List.all_cons, Bool.and_eq_true, decide_eq_true_eq] at hm ih ⊢
    simp only [memWrite]
    split
    · simpa [hm.1] using ih hm.2
    · split
      · simpa [hi] using hm.2
      · simp only [List.all_cons, Bool.and_eq_true, decide_eq_true_eq]; exact ⟨hi, hm.1, hm.2⟩

theorem firstMissing_none {m : List Host.Cell} {start n : Nat} :
    firstMissing m start n = none ↔ ∀ i, start ≤ i → i < start + n → memRead i m ≠ none := by
  induction n generalizing start with
  | zero => simp only [firstMissing, true_iff]; intro i h1 h2; omega
  | succ n ih =>
    simp only [firstMissing]
    cases hr : memRead start m with
    | none => simp only [reduceCtorEq, false_iff]; intro h; exact h start (Nat.le_refl _) (by omega) hr
    | some v =>
      simp only [ih]
      constructor
      · intro h i h1 h2
        by_cases hi : i = start
        · subst hi; simp [hr]
        · exact h i (by omega) (by omega)
      · intro h i h1 h2; exact h i (by omega) (by omega)

theorem firstMissing_some {m : List Host.Cell} {start n i : Nat} (h : firstMissing m start n = some i) :
    start ≤ i ∧ i < start + n ∧ memRead i m = none := by
  induction n generalizing start with
  | zero => simp [firstMissing] at h
  | succ n ih =>
    simp only [firstMissing] at h
    cases hr : memRead start m with
    | none => rw [hr] at h; simp only [Option.some.injEq] at h; subst h; exact ⟨by omega, by omega, hr⟩
    | some v => rw [hr] at h; obtain ⟨h1, h2, h3⟩ := ih h; exact ⟨by omega, by omega, h3⟩

/-- Where nothing is missing, the bytes are those of the indexes in order. -/
theorem memRead_of_memBytes {m : List Host.Cell} {start n : Nat} (h : firstMissing m start n = none)
    {k : Nat} (hk : k < n) : memRead (start + k) m = (memBytes m start n)[k]? := by
  induction n generalizing start k with
  | zero => omega
  | succ n ih =>
    simp only [firstMissing] at h
    cases hr : memRead start m with
    | none => rw [hr] at h; cases h
    | some v =>
      rw [hr] at h
      simp only [memBytes, hr]
      cases k with
      | zero => simpa using hr
      | succ k => simpa [Nat.add_assoc, Nat.add_comm 1] using ih h (k := k) (by omega)

theorem length_memBytes {m : List Host.Cell} {start n : Nat} (h : firstMissing m start n = none) :
    (memBytes m start n).length = n := by
  induction n generalizing start with
  | zero => rfl
  | succ n ih =>
    simp only [firstMissing] at h
    cases hr : memRead start m with
    | none => rw [hr] at h; cases h
    | some v => rw [hr] at h; simp [memBytes, hr, ih h]

end Sys2Proof.Machine
end

