-- ==== Sys2Proof/Laws/State.lean ====
section
/-!
SUPPORT. What each shared update of the state leaves in each field, one lemma per field per update, so that
no later proof unfolds a record update.
-/

namespace Sys2Proof.Machine

@[simp] theorem emit_cfg (s : State) (e : Event) : (s.emit e).cfg = s.cfg := rfl
@[simp] theorem emit_inputs (s : State) (e : Event) : (s.emit e).inputs = s.inputs := rfl
@[simp] theorem emit_busIn (s : State) (e : Event) : (s.emit e).busIn = s.busIn := rfl
@[simp] theorem emit_xfers (s : State) (e : Event) : (s.emit e).xfers = s.xfers := rfl
@[simp] theorem emit_trace (s : State) (e : Event) : (s.emit e).trace = s.trace ++ [e] := rfl
@[simp] theorem emit_busy (s : State) (e : Event) : (s.emit e).busy = s.busy := rfl
@[simp] theorem emit_status (s : State) (e : Event) : (s.emit e).status = s.status := rfl
@[simp] theorem emit_nread (s : State) (e : Event) : (s.emit e).nread = s.nread := rfl
@[simp] theorem emit_halted (s : State) (e : Event) : (s.emit e).halted = s.halted := rfl
@[simp] theorem emit_pb (s : State) (e : Event) : (s.emit e).pb = s.pb := rfl
@[simp] theorem emit_cs (s : State) (e : Event) : (s.emit e).cs = s.cs := rfl
@[simp] theorem emit_tDir (s : State) (e : Event) : (s.emit e).tDir = s.tDir := rfl
@[simp] theorem emit_tAddr (s : State) (e : Event) : (s.emit e).tAddr = s.tAddr := rfl
@[simp] theorem emit_tMb (s : State) (e : Event) : (s.emit e).tMb = s.tMb := rfl
@[simp] theorem emit_tCnt (s : State) (e : Event) : (s.emit e).tCnt = s.tCnt := rfl
@[simp] theorem emit_tByte (s : State) (e : Event) : (s.emit e).tByte = s.tByte := rfl
@[simp] theorem emit_x (s : State) (e : Event) : (s.emit e).x = s.x := rfl
@[simp] theorem emit_y (s : State) (e : Event) : (s.emit e).y = s.y := rfl
@[simp] theorem emit_z (s : State) (e : Event) : (s.emit e).z = s.z := rfl
@[simp] theorem emit_idval (s : State) (e : Event) : (s.emit e).idval = s.idval := rfl
@[simp] theorem emit_pwrval (s : State) (e : Event) : (s.emit e).pwrval = s.pwrval := rfl
@[simp] theorem emit_hasSample (s : State) (e : Event) : (s.emit e).hasSample = s.hasSample := rfl
@[simp] theorem emit_hasId (s : State) (e : Event) : (s.emit e).hasId = s.hasId := rfl
@[simp] theorem emit_hasPwr (s : State) (e : Event) : (s.emit e).hasPwr = s.hasPwr := rfl
@[simp] theorem emit_rseq (s : State) (e : Event) : (s.emit e).rseq = s.rseq := rfl
@[simp] theorem emit_pstate (s : State) (e : Event) : (s.emit e).pstate = s.pstate := rfl
@[simp] theorem emit_nibble (s : State) (e : Event) : (s.emit e).nibble = s.nibble := rfl
@[simp] theorem emit_cursor (s : State) (e : Event) : (s.emit e).cursor = s.cursor := rfl
@[simp] theorem emit_oe (s : State) (e : Event) : (s.emit e).oe = s.oe := rfl
@[simp] theorem emit_rs (s : State) (e : Event) : (s.emit e).rs = s.rs := rfl
@[simp] theorem emit_en (s : State) (e : Event) : (s.emit e).en = s.en := rfl
@[simp] theorem emit_db (s : State) (e : Event) : (s.emit e).db = s.db := rfl
@[simp] theorem emit_pseq (s : State) (e : Event) : (s.emit e).pseq = s.pseq := rfl
@[simp] theorem emit_walk (s : State) (e : Event) : (s.emit e).walk = s.walk := rfl

@[simp] theorem afterXfer_cfg (s : State) (t : Byte) : (s.afterXfer t).cfg = s.cfg := rfl
@[simp] theorem afterXfer_inputs (s : State) (t : Byte) : (s.afterXfer t).inputs = s.inputs := rfl
@[simp] theorem afterXfer_busIn (s : State) (t : Byte) : (s.afterXfer t).busIn = s.busIn.tail := rfl
@[simp] theorem afterXfer_xfers (s : State) (t : Byte) : (s.afterXfer t).xfers = s.xfers + 1 := rfl
@[simp] theorem afterXfer_trace (s : State) (t : Byte) : (s.afterXfer t).trace = s.trace ++ [.xfer t (s.answer 0)] := rfl
@[simp] theorem afterXfer_busy (s : State) (t : Byte) : (s.afterXfer t).busy = s.busy := rfl
@[simp] theorem afterXfer_status (s : State) (t : Byte) : (s.afterXfer t).status = s.status := rfl
@[simp] theorem afterXfer_nread (s : State) (t : Byte) : (s.afterXfer t).nread = s.nread := rfl
@[simp] theorem afterXfer_halted (s : State) (t : Byte) : (s.afterXfer t).halted = s.halted := rfl
@[simp] theorem afterXfer_pb (s : State) (t : Byte) : (s.afterXfer t).pb = s.pb := rfl
@[simp] theorem afterXfer_cs (s : State) (t : Byte) : (s.afterXfer t).cs = s.cs := rfl
@[simp] theorem afterXfer_tDir (s : State) (t : Byte) : (s.afterXfer t).tDir = s.tDir := rfl
@[simp] theorem afterXfer_tAddr (s : State) (t : Byte) : (s.afterXfer t).tAddr = s.tAddr := rfl
@[simp] theorem afterXfer_tMb (s : State) (t : Byte) : (s.afterXfer t).tMb = s.tMb := rfl
@[simp] theorem afterXfer_tCnt (s : State) (t : Byte) : (s.afterXfer t).tCnt = s.tCnt := rfl
@[simp] theorem afterXfer_tByte (s : State) (t : Byte) : (s.afterXfer t).tByte = s.tByte := rfl
@[simp] theorem afterXfer_x (s : State) (t : Byte) : (s.afterXfer t).x = s.x := rfl
@[simp] theorem afterXfer_y (s : State) (t : Byte) : (s.afterXfer t).y = s.y := rfl
@[simp] theorem afterXfer_z (s : State) (t : Byte) : (s.afterXfer t).z = s.z := rfl
@[simp] theorem afterXfer_idval (s : State) (t : Byte) : (s.afterXfer t).idval = s.idval := rfl
@[simp] theorem afterXfer_pwrval (s : State) (t : Byte) : (s.afterXfer t).pwrval = s.pwrval := rfl
@[simp] theorem afterXfer_hasSample (s : State) (t : Byte) : (s.afterXfer t).hasSample = s.hasSample := rfl
@[simp] theorem afterXfer_hasId (s : State) (t : Byte) : (s.afterXfer t).hasId = s.hasId := rfl
@[simp] theorem afterXfer_hasPwr (s : State) (t : Byte) : (s.afterXfer t).hasPwr = s.hasPwr := rfl
@[simp] theorem afterXfer_rseq (s : State) (t : Byte) : (s.afterXfer t).rseq = s.rseq := rfl
@[simp] theorem afterXfer_pstate (s : State) (t : Byte) : (s.afterXfer t).pstate = s.pstate := rfl
@[simp] theorem afterXfer_nibble (s : State) (t : Byte) : (s.afterXfer t).nibble = s.nibble := rfl
@[simp] theorem afterXfer_cursor (s : State) (t : Byte) : (s.afterXfer t).cursor = s.cursor := rfl
@[simp] theorem afterXfer_oe (s : State) (t : Byte) : (s.afterXfer t).oe = s.oe := rfl
@[simp] theorem afterXfer_rs (s : State) (t : Byte) : (s.afterXfer t).rs = s.rs := rfl
@[simp] theorem afterXfer_en (s : State) (t : Byte) : (s.afterXfer t).en = s.en := rfl
@[simp] theorem afterXfer_db (s : State) (t : Byte) : (s.afterXfer t).db = s.db := rfl
@[simp] theorem afterXfer_pseq (s : State) (t : Byte) : (s.afterXfer t).pseq = s.pseq := rfl
@[simp] theorem afterXfer_walk (s : State) (t : Byte) : (s.afterXfer t).walk = s.walk := rfl

@[simp] theorem done_cfg (s : State) (c : Status) (n : Byte) : (s.done c n).cfg = s.cfg := rfl
@[simp] theorem done_inputs (s : State) (c : Status) (n : Byte) : (s.done c n).inputs = s.inputs := rfl
@[simp] theorem done_busIn (s : State) (c : Status) (n : Byte) : (s.done c n).busIn = s.busIn := rfl
@[simp] theorem done_xfers (s : State) (c : Status) (n : Byte) : (s.done c n).xfers = s.xfers := rfl
@[simp] theorem done_trace (s : State) (c : Status) (n : Byte) : (s.done c n).trace = s.trace := rfl
@[simp] theorem done_busy (s : State) (c : Status) (n : Byte) : (s.done c n).busy = false := rfl
@[simp] theorem done_status (s : State) (c : Status) (n : Byte) : (s.done c n).status = c := rfl
@[simp] theorem done_nread (s : State) (c : Status) (n : Byte) : (s.done c n).nread = n := rfl
@[simp] theorem done_halted (s : State) (c : Status) (n : Byte) : (s.done c n).halted = s.halted := rfl
@[simp] theorem done_pb (s : State) (c : Status) (n : Byte) : (s.done c n).pb = s.pb := rfl
@[simp] theorem done_cs (s : State) (c : Status) (n : Byte) : (s.done c n).cs = s.cs := rfl
@[simp] theorem done_tDir (s : State) (c : Status) (n : Byte) : (s.done c n).tDir = s.tDir := rfl
@[simp] theorem done_tAddr (s : State) (c : Status) (n : Byte) : (s.done c n).tAddr = s.tAddr := rfl
@[simp] theorem done_tMb (s : State) (c : Status) (n : Byte) : (s.done c n).tMb = s.tMb := rfl
@[simp] theorem done_tCnt (s : State) (c : Status) (n : Byte) : (s.done c n).tCnt = s.tCnt := rfl
@[simp] theorem done_tByte (s : State) (c : Status) (n : Byte) : (s.done c n).tByte = s.tByte := rfl
@[simp] theorem done_x (s : State) (c : Status) (n : Byte) : (s.done c n).x = s.x := rfl
@[simp] theorem done_y (s : State) (c : Status) (n : Byte) : (s.done c n).y = s.y := rfl
@[simp] theorem done_z (s : State) (c : Status) (n : Byte) : (s.done c n).z = s.z := rfl
@[simp] theorem done_idval (s : State) (c : Status) (n : Byte) : (s.done c n).idval = s.idval := rfl
@[simp] theorem done_pwrval (s : State) (c : Status) (n : Byte) : (s.done c n).pwrval = s.pwrval := rfl
@[simp] theorem done_hasSample (s : State) (c : Status) (n : Byte) : (s.done c n).hasSample = s.hasSample := rfl
@[simp] theorem done_hasId (s : State) (c : Status) (n : Byte) : (s.done c n).hasId = s.hasId := rfl
@[simp] theorem done_hasPwr (s : State) (c : Status) (n : Byte) : (s.done c n).hasPwr = s.hasPwr := rfl
@[simp] theorem done_rseq (s : State) (c : Status) (n : Byte) : (s.done c n).rseq = s.rseq := rfl
@[simp] theorem done_pstate (s : State) (c : Status) (n : Byte) : (s.done c n).pstate = s.pstate := rfl
@[simp] theorem done_nibble (s : State) (c : Status) (n : Byte) : (s.done c n).nibble = s.nibble := rfl
@[simp] theorem done_cursor (s : State) (c : Status) (n : Byte) : (s.done c n).cursor = s.cursor := rfl
@[simp] theorem done_oe (s : State) (c : Status) (n : Byte) : (s.done c n).oe = s.oe := rfl
@[simp] theorem done_rs (s : State) (c : Status) (n : Byte) : (s.done c n).rs = s.rs := rfl
@[simp] theorem done_en (s : State) (c : Status) (n : Byte) : (s.done c n).en = s.en := rfl
@[simp] theorem done_db (s : State) (c : Status) (n : Byte) : (s.done c n).db = s.db := rfl
@[simp] theorem done_pseq (s : State) (c : Status) (n : Byte) : (s.done c n).pseq = s.pseq := rfl
@[simp] theorem done_walk (s : State) (c : Status) (n : Byte) : (s.done c n).walk = s.walk := rfl

@[simp] theorem raise_cfg (s : State) (c : Status) : (s.raise c).cfg = s.cfg := rfl
@[simp] theorem raise_inputs (s : State) (c : Status) : (s.raise c).inputs = s.inputs := rfl
@[simp] theorem raise_busIn (s : State) (c : Status) : (s.raise c).busIn = s.busIn := rfl
@[simp] theorem raise_xfers (s : State) (c : Status) : (s.raise c).xfers = s.xfers := rfl
@[simp] theorem raise_trace (s : State) (c : Status) : (s.raise c).trace = s.trace := rfl
@[simp] theorem raise_busy (s : State) (c : Status) : (s.raise c).busy = false := rfl
@[simp] theorem raise_status (s : State) (c : Status) : (s.raise c).status = c := rfl
@[simp] theorem raise_nread (s : State) (c : Status) : (s.raise c).nread = 0 := rfl
@[simp] theorem raise_halted (s : State) (c : Status) : (s.raise c).halted = s.halted := rfl
@[simp] theorem raise_pb (s : State) (c : Status) : (s.raise c).pb = s.pb := rfl
@[simp] theorem raise_cs (s : State) (c : Status) : (s.raise c).cs = s.cs := rfl
@[simp] theorem raise_tDir (s : State) (c : Status) : (s.raise c).tDir = s.tDir := rfl
@[simp] theorem raise_tAddr (s : State) (c : Status) : (s.raise c).tAddr = s.tAddr := rfl
@[simp] theorem raise_tMb (s : State) (c : Status) : (s.raise c).tMb = s.tMb := rfl
@[simp] theorem raise_tCnt (s : State) (c : Status) : (s.raise c).tCnt = s.tCnt := rfl
@[simp] theorem raise_tByte (s : State) (c : Status) : (s.raise c).tByte = s.tByte := rfl
@[simp] theorem raise_x (s : State) (c : Status) : (s.raise c).x = s.x := rfl
@[simp] theorem raise_y (s : State) (c : Status) : (s.raise c).y = s.y := rfl
@[simp] theorem raise_z (s : State) (c : Status) : (s.raise c).z = s.z := rfl
@[simp] theorem raise_idval (s : State) (c : Status) : (s.raise c).idval = s.idval := rfl
@[simp] theorem raise_pwrval (s : State) (c : Status) : (s.raise c).pwrval = s.pwrval := rfl
@[simp] theorem raise_hasSample (s : State) (c : Status) : (s.raise c).hasSample = s.hasSample := rfl
@[simp] theorem raise_hasId (s : State) (c : Status) : (s.raise c).hasId = s.hasId := rfl
@[simp] theorem raise_hasPwr (s : State) (c : Status) : (s.raise c).hasPwr = s.hasPwr := rfl
@[simp] theorem raise_rseq (s : State) (c : Status) : (s.raise c).rseq = s.rseq := rfl
@[simp] theorem raise_pstate (s : State) (c : Status) : (s.raise c).pstate = s.pstate := rfl
@[simp] theorem raise_nibble (s : State) (c : Status) : (s.raise c).nibble = s.nibble := rfl
@[simp] theorem raise_cursor (s : State) (c : Status) : (s.raise c).cursor = s.cursor := rfl
@[simp] theorem raise_oe (s : State) (c : Status) : (s.raise c).oe = s.oe := rfl
@[simp] theorem raise_rs (s : State) (c : Status) : (s.raise c).rs = s.rs := rfl
@[simp] theorem raise_en (s : State) (c : Status) : (s.raise c).en = s.en := rfl
@[simp] theorem raise_db (s : State) (c : Status) : (s.raise c).db = s.db := rfl
@[simp] theorem raise_pseq (s : State) (c : Status) : (s.raise c).pseq = s.pseq := rfl
@[simp] theorem raise_walk (s : State) (c : Status) : (s.raise c).walk = s.walk := rfl

@[simp] theorem loadTx_cfg (s : State) (tx : Tx) : (s.loadTx tx).cfg = s.cfg := by cases tx <;> rfl
@[simp] theorem loadTx_inputs (s : State) (tx : Tx) : (s.loadTx tx).inputs = s.inputs := by cases tx <;> rfl
@[simp] theorem loadTx_busIn (s : State) (tx : Tx) : (s.loadTx tx).busIn = s.busIn := by cases tx <;> rfl
@[simp] theorem loadTx_xfers (s : State) (tx : Tx) : (s.loadTx tx).xfers = s.xfers := by cases tx <;> rfl
@[simp] theorem loadTx_trace (s : State) (tx : Tx) : (s.loadTx tx).trace = s.trace := by cases tx <;> rfl
@[simp] theorem loadTx_busy (s : State) (tx : Tx) : (s.loadTx tx).busy = s.busy := by cases tx <;> rfl
@[simp] theorem loadTx_status (s : State) (tx : Tx) : (s.loadTx tx).status = s.status := by cases tx <;> rfl
@[simp] theorem loadTx_nread (s : State) (tx : Tx) : (s.loadTx tx).nread = s.nread := by cases tx <;> rfl
@[simp] theorem loadTx_halted (s : State) (tx : Tx) : (s.loadTx tx).halted = s.halted := by cases tx <;> rfl
@[simp] theorem loadTx_pb (s : State) (tx : Tx) : (s.loadTx tx).pb = s.pb := by cases tx <;> rfl
@[simp] theorem loadTx_cs (s : State) (tx : Tx) : (s.loadTx tx).cs = s.cs := by cases tx <;> rfl
@[simp] theorem loadTx_x (s : State) (tx : Tx) : (s.loadTx tx).x = s.x := by cases tx <;> rfl
@[simp] theorem loadTx_y (s : State) (tx : Tx) : (s.loadTx tx).y = s.y := by cases tx <;> rfl
@[simp] theorem loadTx_z (s : State) (tx : Tx) : (s.loadTx tx).z = s.z := by cases tx <;> rfl
@[simp] theorem loadTx_idval (s : State) (tx : Tx) : (s.loadTx tx).idval = s.idval := by cases tx <;> rfl
@[simp] theorem loadTx_pwrval (s : State) (tx : Tx) : (s.loadTx tx).pwrval = s.pwrval := by cases tx <;> rfl
@[simp] theorem loadTx_hasSample (s : State) (tx : Tx) : (s.loadTx tx).hasSample = s.hasSample := by cases tx <;> rfl
@[simp] theorem loadTx_hasId (s : State) (tx : Tx) : (s.loadTx tx).hasId = s.hasId := by cases tx <;> rfl
@[simp] theorem loadTx_hasPwr (s : State) (tx : Tx) : (s.loadTx tx).hasPwr = s.hasPwr := by cases tx <;> rfl
@[simp] theorem loadTx_rseq (s : State) (tx : Tx) : (s.loadTx tx).rseq = s.rseq := by cases tx <;> rfl
@[simp] theorem loadTx_pstate (s : State) (tx : Tx) : (s.loadTx tx).pstate = s.pstate := by cases tx <;> rfl
@[simp] theorem loadTx_nibble (s : State) (tx : Tx) : (s.loadTx tx).nibble = s.nibble := by cases tx <;> rfl
@[simp] theorem loadTx_cursor (s : State) (tx : Tx) : (s.loadTx tx).cursor = s.cursor := by cases tx <;> rfl
@[simp] theorem loadTx_oe (s : State) (tx : Tx) : (s.loadTx tx).oe = s.oe := by cases tx <;> rfl
@[simp] theorem loadTx_rs (s : State) (tx : Tx) : (s.loadTx tx).rs = s.rs := by cases tx <;> rfl
@[simp] theorem loadTx_en (s : State) (tx : Tx) : (s.loadTx tx).en = s.en := by cases tx <;> rfl
@[simp] theorem loadTx_db (s : State) (tx : Tx) : (s.loadTx tx).db = s.db := by cases tx <;> rfl
@[simp] theorem loadTx_pseq (s : State) (tx : Tx) : (s.loadTx tx).pseq = s.pseq := by cases tx <;> rfl
@[simp] theorem loadTx_walk (s : State) (tx : Tx) : (s.loadTx tx).walk = s.walk := by cases tx <;> rfl

@[simp] theorem storeRead_cfg (s : State) (d : ReadDest) (k : Nat) (r : Byte) : (s.storeRead d k r).cfg = s.cfg := by cases d <;> rfl
@[simp] theorem storeRead_inputs (s : State) (d : ReadDest) (k : Nat) (r : Byte) : (s.storeRead d k r).inputs = s.inputs := by cases d <;> rfl
@[simp] theorem storeRead_busIn (s : State) (d : ReadDest) (k : Nat) (r : Byte) : (s.storeRead d k r).busIn = s.busIn := by cases d <;> rfl
@[simp] theorem storeRead_xfers (s : State) (d : ReadDest) (k : Nat) (r : Byte) : (s.storeRead d k r).xfers = s.xfers := by cases d <;> rfl
@[simp] theorem storeRead_trace (s : State) (d : ReadDest) (k : Nat) (r : Byte) : (s.storeRead d k r).trace = s.trace := by cases d <;> rfl
@[simp] theorem storeRead_busy (s : State) (d : ReadDest) (k : Nat) (r : Byte) : (s.storeRead d k r).busy = s.busy := by cases d <;> rfl
@[simp] theorem storeRead_status (s : State) (d : ReadDest) (k : Nat) (r : Byte) : (s.storeRead d k r).status = s.status := by cases d <;> rfl
@[simp] theorem storeRead_nread (s : State) (d : ReadDest) (k : Nat) (r : Byte) : (s.storeRead d k r).nread = s.nread := by cases d <;> rfl
@[simp] theorem storeRead_halted (s : State) (d : ReadDest) (k : Nat) (r : Byte) : (s.storeRead d k r).halted = s.halted := by cases d <;> rfl
@[simp] theorem storeRead_cs (s : State) (d : ReadDest) (k : Nat) (r : Byte) : (s.storeRead d k r).cs = s.cs := by cases d <;> rfl
@[simp] theorem storeRead_tDir (s : State) (d : ReadDest) (k : Nat) (r : Byte) : (s.storeRead d k r).tDir = s.tDir := by cases d <;> rfl
@[simp] theorem storeRead_tAddr (s : State) (d : ReadDest) (k : Nat) (r : Byte) : (s.storeRead d k r).tAddr = s.tAddr := by cases d <;> rfl
@[simp] theorem storeRead_tMb (s : State) (d : ReadDest) (k : Nat) (r : Byte) : (s.storeRead d k r).tMb = s.tMb := by cases d <;> rfl
@[simp] theorem storeRead_tCnt (s : State) (d : ReadDest) (k : Nat) (r : Byte) : (s.storeRead d k r).tCnt = s.tCnt := by cases d <;> rfl
@[simp] theorem storeRead_tByte (s : State) (d : ReadDest) (k : Nat) (r : Byte) : (s.storeRead d k r).tByte = s.tByte := by cases d <;> rfl
@[simp] theorem storeRead_x (s : State) (d : ReadDest) (k : Nat) (r : Byte) : (s.storeRead d k r).x = s.x := by cases d <;> rfl
@[simp] theorem storeRead_y (s : State) (d : ReadDest) (k : Nat) (r : Byte) : (s.storeRead d k r).y = s.y := by cases d <;> rfl
@[simp] theorem storeRead_z (s : State) (d : ReadDest) (k : Nat) (r : Byte) : (s.storeRead d k r).z = s.z := by cases d <;> rfl
@[simp] theorem storeRead_hasSample (s : State) (d : ReadDest) (k : Nat) (r : Byte) : (s.storeRead d k r).hasSample = s.hasSample := by cases d <;> rfl
@[simp] theorem storeRead_rseq (s : State) (d : ReadDest) (k : Nat) (r : Byte) : (s.storeRead d k r).rseq = s.rseq := by cases d <;> rfl
@[simp] theorem storeRead_pstate (s : State) (d : ReadDest) (k : Nat) (r : Byte) : (s.storeRead d k r).pstate = s.pstate := by cases d <;> rfl
@[simp] theorem storeRead_nibble (s : State) (d : ReadDest) (k : Nat) (r : Byte) : (s.storeRead d k r).nibble = s.nibble := by cases d <;> rfl
@[simp] theorem storeRead_cursor (s : State) (d : ReadDest) (k : Nat) (r : Byte) : (s.storeRead d k r).cursor = s.cursor := by cases d <;> rfl
@[simp] theorem storeRead_oe (s : State) (d : ReadDest) (k : Nat) (r : Byte) : (s.storeRead d k r).oe = s.oe := by cases d <;> rfl
@[simp] theorem storeRead_rs (s : State) (d : ReadDest) (k : Nat) (r : Byte) : (s.storeRead d k r).rs = s.rs := by cases d <;> rfl
@[simp] theorem storeRead_en (s : State) (d : ReadDest) (k : Nat) (r : Byte) : (s.storeRead d k r).en = s.en := by cases d <;> rfl
@[simp] theorem storeRead_db (s : State) (d : ReadDest) (k : Nat) (r : Byte) : (s.storeRead d k r).db = s.db := by cases d <;> rfl
@[simp] theorem storeRead_pseq (s : State) (d : ReadDest) (k : Nat) (r : Byte) : (s.storeRead d k r).pseq = s.pseq := by cases d <;> rfl
@[simp] theorem storeRead_walk (s : State) (d : ReadDest) (k : Nat) (r : Byte) : (s.storeRead d k r).walk = s.walk := by cases d <;> rfl

@[simp] theorem acceptBus_cfg (s : State) (tx : Tx) (w : List Micro) : (s.acceptBus tx w).cfg = s.cfg := by cases tx <;> rfl
@[simp] theorem acceptBus_inputs (s : State) (tx : Tx) (w : List Micro) : (s.acceptBus tx w).inputs = s.inputs := by cases tx <;> rfl
@[simp] theorem acceptBus_busIn (s : State) (tx : Tx) (w : List Micro) : (s.acceptBus tx w).busIn = s.busIn := by cases tx <;> rfl
@[simp] theorem acceptBus_xfers (s : State) (tx : Tx) (w : List Micro) : (s.acceptBus tx w).xfers = s.xfers := by cases tx <;> rfl
@[simp] theorem acceptBus_trace (s : State) (tx : Tx) (w : List Micro) : (s.acceptBus tx w).trace = s.trace := by cases tx <;> rfl
@[simp] theorem acceptBus_busy (s : State) (tx : Tx) (w : List Micro) : (s.acceptBus tx w).busy = true := by cases tx <;> rfl
@[simp] theorem acceptBus_status (s : State) (tx : Tx) (w : List Micro) : (s.acceptBus tx w).status = s.status := by cases tx <;> rfl
@[simp] theorem acceptBus_nread (s : State) (tx : Tx) (w : List Micro) : (s.acceptBus tx w).nread = s.nread := by cases tx <;> rfl
@[simp] theorem acceptBus_halted (s : State) (tx : Tx) (w : List Micro) : (s.acceptBus tx w).halted = s.halted := by cases tx <;> rfl
@[simp] theorem acceptBus_pb (s : State) (tx : Tx) (w : List Micro) : (s.acceptBus tx w).pb = s.pb := by cases tx <;> rfl
@[simp] theorem acceptBus_cs (s : State) (tx : Tx) (w : List Micro) : (s.acceptBus tx w).cs = s.cs := by cases tx <;> rfl
@[simp] theorem acceptBus_tDir (s : State) (tx : Tx) (w : List Micro) : (s.acceptBus tx w).tDir = (s.loadTx tx).tDir := by cases tx <;> rfl
@[simp] theorem acceptBus_tAddr (s : State) (tx : Tx) (w : List Micro) : (s.acceptBus tx w).tAddr = (s.loadTx tx).tAddr := by cases tx <;> rfl
@[simp] theorem acceptBus_tMb (s : State) (tx : Tx) (w : List Micro) : (s.acceptBus tx w).tMb = (s.loadTx tx).tMb := by cases tx <;> rfl
@[simp] theorem acceptBus_tCnt (s : State) (tx : Tx) (w : List Micro) : (s.acceptBus tx w).tCnt = (s.loadTx tx).tCnt := by cases tx <;> rfl
@[simp] theorem acceptBus_tByte (s : State) (tx : Tx) (w : List Micro) : (s.acceptBus tx w).tByte = (s.loadTx tx).tByte := by cases tx <;> rfl
@[simp] theorem acceptBus_x (s : State) (tx : Tx) (w : List Micro) : (s.acceptBus tx w).x = s.x := by cases tx <;> rfl
@[simp] theorem acceptBus_y (s : State) (tx : Tx) (w : List Micro) : (s.acceptBus tx w).y = s.y := by cases tx <;> rfl
@[simp] theorem acceptBus_z (s : State) (tx : Tx) (w : List Micro) : (s.acceptBus tx w).z = s.z := by cases tx <;> rfl
@[simp] theorem acceptBus_idval (s : State) (tx : Tx) (w : List Micro) : (s.acceptBus tx w).idval = s.idval := by cases tx <;> rfl
@[simp] theorem acceptBus_pwrval (s : State) (tx : Tx) (w : List Micro) : (s.acceptBus tx w).pwrval = s.pwrval := by cases tx <;> rfl
@[simp] theorem acceptBus_hasSample (s : State) (tx : Tx) (w : List Micro) : (s.acceptBus tx w).hasSample = s.hasSample := by cases tx <;> rfl
@[simp] theorem acceptBus_hasId (s : State) (tx : Tx) (w : List Micro) : (s.acceptBus tx w).hasId = s.hasId := by cases tx <;> rfl
@[simp] theorem acceptBus_hasPwr (s : State) (tx : Tx) (w : List Micro) : (s.acceptBus tx w).hasPwr = s.hasPwr := by cases tx <;> rfl
@[simp] theorem acceptBus_rseq (s : State) (tx : Tx) (w : List Micro) : (s.acceptBus tx w).rseq = .sel := by cases tx <;> rfl
@[simp] theorem acceptBus_pstate (s : State) (tx : Tx) (w : List Micro) : (s.acceptBus tx w).pstate = s.pstate := by cases tx <;> rfl
@[simp] theorem acceptBus_nibble (s : State) (tx : Tx) (w : List Micro) : (s.acceptBus tx w).nibble = s.nibble := by cases tx <;> rfl
@[simp] theorem acceptBus_cursor (s : State) (tx : Tx) (w : List Micro) : (s.acceptBus tx w).cursor = s.cursor := by cases tx <;> rfl
@[simp] theorem acceptBus_oe (s : State) (tx : Tx) (w : List Micro) : (s.acceptBus tx w).oe = s.oe := by cases tx <;> rfl
@[simp] theorem acceptBus_rs (s : State) (tx : Tx) (w : List Micro) : (s.acceptBus tx w).rs = s.rs := by cases tx <;> rfl
@[simp] theorem acceptBus_en (s : State) (tx : Tx) (w : List Micro) : (s.acceptBus tx w).en = s.en := by cases tx <;> rfl
@[simp] theorem acceptBus_db (s : State) (tx : Tx) (w : List Micro) : (s.acceptBus tx w).db = s.db := by cases tx <;> rfl
@[simp] theorem acceptBus_pseq (s : State) (tx : Tx) (w : List Micro) : (s.acceptBus tx w).pseq = s.pseq := by cases tx <;> rfl
@[simp] theorem acceptBus_walk (s : State) (tx : Tx) (w : List Micro) : (s.acceptBus tx w).walk = w := by cases tx <;> rfl

@[simp] theorem acceptDisplay_cfg (s : State) (b : List DisplayByte) (h : Finish) : (s.acceptDisplay b h).cfg = s.cfg := rfl
@[simp] theorem acceptDisplay_inputs (s : State) (b : List DisplayByte) (h : Finish) : (s.acceptDisplay b h).inputs = s.inputs := rfl
@[simp] theorem acceptDisplay_busIn (s : State) (b : List DisplayByte) (h : Finish) : (s.acceptDisplay b h).busIn = s.busIn := rfl
@[simp] theorem acceptDisplay_xfers (s : State) (b : List DisplayByte) (h : Finish) : (s.acceptDisplay b h).xfers = s.xfers := rfl
@[simp] theorem acceptDisplay_trace (s : State) (b : List DisplayByte) (h : Finish) : (s.acceptDisplay b h).trace = s.trace := rfl
@[simp] theorem acceptDisplay_busy (s : State) (b : List DisplayByte) (h : Finish) : (s.acceptDisplay b h).busy = true := rfl
@[simp] theorem acceptDisplay_status (s : State) (b : List DisplayByte) (h : Finish) : (s.acceptDisplay b h).status = s.status := rfl
@[simp] theorem acceptDisplay_nread (s : State) (b : List DisplayByte) (h : Finish) : (s.acceptDisplay b h).nread = s.nread := rfl
@[simp] theorem acceptDisplay_halted (s : State) (b : List DisplayByte) (h : Finish) : (s.acceptDisplay b h).halted = s.halted := rfl
@[simp] theorem acceptDisplay_pb (s : State) (b : List DisplayByte) (h : Finish) : (s.acceptDisplay b h).pb = s.pb := rfl
@[simp] theorem acceptDisplay_cs (s : State) (b : List DisplayByte) (h : Finish) : (s.acceptDisplay b h).cs = s.cs := rfl
@[simp] theorem acceptDisplay_tDir (s : State) (b : List DisplayByte) (h : Finish) : (s.acceptDisplay b h).tDir = s.tDir := rfl
@[simp] theorem acceptDisplay_tAddr (s : State) (b : List DisplayByte) (h : Finish) : (s.acceptDisplay b h).tAddr = s.tAddr := rfl
@[simp] theorem acceptDisplay_tMb (s : State) (b : List DisplayByte) (h : Finish) : (s.acceptDisplay b h).tMb = s.tMb := rfl
@[simp] theorem acceptDisplay_tCnt (s : State) (b : List DisplayByte) (h : Finish) : (s.acceptDisplay b h).tCnt = s.tCnt := rfl
@[simp] theorem acceptDisplay_tByte (s : State) (b : List DisplayByte) (h : Finish) : (s.acceptDisplay b h).tByte = s.tByte := rfl
@[simp] theorem acceptDisplay_x (s : State) (b : List DisplayByte) (h : Finish) : (s.acceptDisplay b h).x = s.x := rfl
@[simp] theorem acceptDisplay_y (s : State) (b : List DisplayByte) (h : Finish) : (s.acceptDisplay b h).y = s.y := rfl
@[simp] theorem acceptDisplay_z (s : State) (b : List DisplayByte) (h : Finish) : (s.acceptDisplay b h).z = s.z := rfl
@[simp] theorem acceptDisplay_idval (s : State) (b : List DisplayByte) (h : Finish) : (s.acceptDisplay b h).idval = s.idval := rfl
@[simp] theorem acceptDisplay_pwrval (s : State) (b : List DisplayByte) (h : Finish) : (s.acceptDisplay b h).pwrval = s.pwrval := rfl
@[simp] theorem acceptDisplay_hasSample (s : State) (b : List DisplayByte) (h : Finish) : (s.acceptDisplay b h).hasSample = s.hasSample := rfl
@[simp] theorem acceptDisplay_hasId (s : State) (b : List DisplayByte) (h : Finish) : (s.acceptDisplay b h).hasId = s.hasId := rfl
@[simp] theorem acceptDisplay_hasPwr (s : State) (b : List DisplayByte) (h : Finish) : (s.acceptDisplay b h).hasPwr = s.hasPwr := rfl
@[simp] theorem acceptDisplay_rseq (s : State) (b : List DisplayByte) (h : Finish) : (s.acceptDisplay b h).rseq = s.rseq := rfl
@[simp] theorem acceptDisplay_pstate (s : State) (b : List DisplayByte) (h : Finish) : (s.acceptDisplay b h).pstate = s.pstate := rfl
@[simp] theorem acceptDisplay_nibble (s : State) (b : List DisplayByte) (h : Finish) : (s.acceptDisplay b h).nibble = s.nibble := rfl
@[simp] theorem acceptDisplay_cursor (s : State) (b : List DisplayByte) (h : Finish) : (s.acceptDisplay b h).cursor = s.cursor := rfl
@[simp] theorem acceptDisplay_oe (s : State) (b : List DisplayByte) (h : Finish) : (s.acceptDisplay b h).oe = s.oe := rfl
@[simp] theorem acceptDisplay_rs (s : State) (b : List DisplayByte) (h : Finish) : (s.acceptDisplay b h).rs = s.rs := rfl
@[simp] theorem acceptDisplay_en (s : State) (b : List DisplayByte) (h : Finish) : (s.acceptDisplay b h).en = s.en := rfl
@[simp] theorem acceptDisplay_db (s : State) (b : List DisplayByte) (h : Finish) : (s.acceptDisplay b h).db = s.db := rfl
@[simp] theorem acceptDisplay_pseq (s : State) (b : List DisplayByte) (h : Finish) : (s.acceptDisplay b h).pseq = nextBytePhase (!b.isEmpty) := rfl
@[simp] theorem acceptDisplay_walk (s : State) (b : List DisplayByte) (h : Finish) : (s.acceptDisplay b h).walk = sendsWalk s.nibble b ++ [.finish h] := rfl

end Sys2Proof.Machine
end

