-- ==== Sys2Proof/Laws/Ops.lean ====
section
/-!
SUPPORT. What the shared operations can answer, each said once: the checks, the payload, the bus answers,
completing and raising.
-/

namespace Sys2Proof.Machine

/-- `precheck` in an idle, unhalted block is the body. -/
theorem precheck_open {s : State} {body : Result} (hb : s.busy = false) (hh : s.halted = false) :
    precheck s body = body := by simp [precheck, hb, hh]

/-- Everything `precheck` can give as a next state. -/
theorem precheck_next {s t : State} {body : Result} (h : precheck s body = .next t) :
    s.busy = false ∧ ((s.halted = true ∧ t = s.raise .halted) ∨ (s.halted = false ∧ body = .next t)) := by
  unfold precheck at h
  cases hb : s.busy <;> cases hh : s.halted <;> simp_all

/-- `whenReady` in an idle, unhalted, ready block is the body. -/
theorem whenReady_open {s : State} {body : Result} (hb : s.busy = false) (hh : s.halted = false)
    (hr : s.pstate = .ready) : whenReady s body = body := by simp [whenReady, precheck, hb, hh, hr]

/-- Everything `whenReady` can give as a next state. -/
theorem whenReady_next {s t : State} {body : Result} (h : whenReady s body = .next t) :
    s.busy = false ∧ ((s.halted = true ∧ t = s.raise .halted) ∨
      (s.halted = false ∧ s.pstate ≠ .ready ∧ t = s.raise .badState) ∨
      (s.halted = false ∧ s.pstate = .ready ∧ body = .next t)) := by
  obtain ⟨hb, h⟩ := precheck_next h
  refine ⟨hb, ?_⟩
  rcases h with h | ⟨hh, h⟩
  · exact .inl h
  · right
    split at h
    · next hr => exact .inr ⟨hh, hr, h⟩
    · next hr => exact .inl ⟨hh, hr, by simpa using h.symm⟩

/-- `illegalOperation` gives the state with status IllegalOp. -/
theorem illegalOperation_next {s t : State} (h : illegalOperation s = .next t) :
    s.busy = false ∧ t = s.raise .illegalOp := by
  unfold illegalOperation at h
  cases hb : s.busy <;> simp_all

/-- The payload check passes exactly where all bytes have a value. -/
theorem withPayload_next {s t : State} {n : Nat} {body : List Byte → Result}
    (h : withPayload s n body = .next t) :
    firstMissing s.pb 0 n = none ∧ body (memBytes s.pb 0 n) = .next t := by
  unfold withPayload at h
  split at h
  · cases h
  · next hm => exact ⟨hm, h⟩

/-- An internal row's check passes in an idle, unhalted block. -/
theorem internalCheck_open {s : State} {body : Result} (hb : s.busy = false) (hh : s.halted = false) :
    internalCheck s body = body := by simp [internalCheck, hb, hh]

/-- Everything `internalCheck` can give as a next state. -/
theorem internalCheck_next {s t : State} {body : Result} (h : internalCheck s body = .next t) :
    s.busy = false ∧ s.halted = false ∧ body = .next t := by
  unfold internalCheck at h
  cases hb : s.busy <;> cases hh : s.halted <;> simp_all

/-- The answers after n exchanges are the later ones. -/
theorem busAnswer_drop (busIn : List Byte) (xfers n k : Nat) :
    busAnswer (busIn.drop n) (xfers + n) k = busAnswer busIn xfers (n + k) := by
  rw [busAnswer, busAnswer, List.getElem?_drop, Nat.add_assoc]

/-- One exchange further on, the k-th answer is the one that was k + 1 away. -/
theorem answer_of_advanced {s t : State} (n k : Nat) (hb : t.busIn = s.busIn.drop n)
    (hx : t.xfers = s.xfers + n) : t.answer k = s.answer (n + k) := by
  rw [State.answer, State.answer, hb, hx, busAnswer_drop]

@[simp] theorem answer_afterXfer (s : State) (t : Byte) (k : Nat) :
    (s.afterXfer t).answer k = s.answer (k + 1) := by
  rw [answer_of_advanced 1 k (s := s) (by simp) (by simp), Nat.add_comm]

@[simp] theorem answer_emit (s : State) (e : Event) (k : Nat) : (s.emit e).answer k = s.answer k := rfl

theorem complete_next {r : Result} {t : State} (h : complete r = .next t) :
    ∃ s1, r = .next s1 ∧ t = drain s1 := by
  cases r with
  | next s1 => exact ⟨s1, rfl, by simpa [complete] using h.symm⟩
  | fault f => cases h
  | refused f => cases h

/-- An operation that ended when it was begun is not run further. -/
theorem drain_of_not_busy {s : State} (h : s.busy = false) : drain s = s := by simp [drain, h]

@[simp] theorem drain_raise (s : State) (c : Status) : drain (s.raise c) = s.raise c :=
  drain_of_not_busy rfl

/-- In an idle block an error changes `status` and `nread` only (60_exceptions R247). -/
theorem raise_of_idle {s : State} (h : s.busy = false) (c : Status) :
    s.raise c = { s with status := c, nread := 0 } := by
  cases s; simp_all [State.raise, State.done]

/-- An operation that ends in an error when it is begun. -/
theorem complete_raise {s : State} (h : s.busy = false) (c : Status) :
    complete (.next (s.raise c)) = .next { s with status := c, nread := 0 } := by
  rw [complete, drain_raise, raise_of_idle h]

theorem addressBad_iff (address : Nat) : addressBad address = true ↔ 0x3F < address := by
  rw [addressBad, decide_eq_true_eq]; rfl

theorem countBad_iff (maxCount count : Nat) :
    countBad maxCount count = true ↔ count < 1 ∨ maxCount < count := by
  rw [countBad, Bool.or_eq_true, decide_eq_true_eq, decide_eq_true_eq]

theorem slotBad_iff (slot : Nat) : slotBad slot = true ↔ 8 ≤ slot := by
  rw [slotBad, decide_eq_true_eq]; rfl

theorem positionBad_iff (rows cols row col : Nat) :
    positionBad rows cols row col = true ↔ rows ≤ row ∨ cols ≤ col := by
  rw [positionBad, Bool.or_eq_true, decide_eq_true_eq, decide_eq_true_eq]

theorem identityBad_iff (idValue idval : Byte) : identityBad idValue idval = true ↔ idval ≠ idValue := by
  rw [identityBad, decide_eq_true_eq]

theorem multiByteBit_iff (count : Byte) : multiByteBit count = true ↔ 1 < count.toNat := by
  rw [multiByteBit, decide_eq_true_eq]

/-- Rounding up to whole milliseconds keeps the lower bound and adds less than one (20_memory R85, log 35). -/
theorem wholeMillis_bound (micros : Nat) :
    micros ≤ 1000 * wholeMillis micros ∧ 1000 * wholeMillis micros < micros + 1000 := by
  unfold wholeMillis; omega

/-- The lines INIT_LINES makes outputs are LINES = 10 (00_scope R6, R7). -/
theorem displayLines_length {c : Params} (h : c.ok = true) : (displayLines c).length = displayLineCount := by
  simp only [Params.ok, Bool.and_eq_true, decide_eq_true_eq] at h
  simp only [displayLines, List.length_append, List.length_cons, List.length_nil, displayLineCount]
  omega

end Sys2Proof.Machine
end

