-- ==== Sys2Proof/Laws/Sequencer.lean ====
section
/-!
SUPPORT. The sequencers: leaving a phase does not look at the walk, running a walk is leaving its phases in
order, and what the walks of a display byte and of a frame do to the whole state.
-/

namespace Sys2Proof.Machine

/-- All phases of a walk left in order, whatever the walk field holds. -/
def leaveAll (w : List Micro) (s : State) : State := w.foldl (fun s m => leave m s) s

@[simp] theorem leaveAll_nil (s : State) : leaveAll [] s = s := rfl

@[simp] theorem leaveAll_cons (m : Micro) (w : List Micro) (s : State) :
    leaveAll (m :: w) s = leaveAll w (leave m s) := rfl

theorem leaveAll_append (v w : List Micro) (s : State) :
    leaveAll (v ++ w) s = leaveAll w (leaveAll v s) := by simp [leaveAll]

/-- Leaving a phase neither looks at nor changes the walk. -/
theorem leave_walk (m : Micro) (s : State) (w : List Micro) :
    leave m { s with walk := w } = { leave m s with walk := w } := by
  cases m with
  | desel next => cases next with
    | none => rfl
    | some tx => cases tx <;> rfl
  | rdata dest k => cases dest <;> rfl
  | finish how =>
    cases how <;> try rfl
    · simp only [leave, State.finish, State.checkIdentity]; split <;> rfl
    · simp only [leave, State.finish, State.decodeSample, State.pbAt]; split <;> rfl
  | _ => rfl

/-- Leaving a phase neither looks at nor changes the moves to come. -/
theorem leave_inputs (m : Micro) (s : State) (i : List Move) :
    leave m { s with inputs := i } = { leave m s with inputs := i } := by
  cases m with
  | desel next => cases next with
    | none => rfl
    | some tx => cases tx <;> rfl
  | rdata dest k => cases dest <;> rfl
  | finish how =>
    cases how <;> try rfl
    · simp only [leave, State.finish, State.checkIdentity]; split <;> rfl
    · simp only [leave, State.finish, State.decodeSample, State.pbAt]; split <;> rfl
  | _ => rfl

@[simp] theorem walk_leave (m : Micro) (s : State) : (leave m s).walk = s.walk := by
  have h := congrArg State.walk (leave_walk m s s.walk)
  simpa using h

theorem leaveAll_walk (v : List Micro) (s : State) (w : List Micro) :
    leaveAll v { s with walk := w } = { leaveAll v s with walk := w } := by
  induction v generalizing s with
  | nil => rfl
  | cons m v ih => simp only [leaveAll_cons, leave_walk, ih]

/-- Running a walk is leaving its phases in order; nothing of it is left. -/
theorem runMicros_eq_leaveAll (v : List Micro) (s : State) (h : v ≠ []) :
    runMicros v s = { leaveAll v s with walk := [] } := by
  induction v generalizing s with
  | nil => exact absurd rfl h
  | cons m v ih =>
    simp only [runMicros, leaveAll_cons, leave_walk]
    cases v with
    | nil => rfl
    | cons m' v => rw [ih _ (by simp), leaveAll_walk]

/-- Running a walk is ticking it through (the phase by phase view). -/
theorem tick_iterate_eq_runMicros (v : List Micro) (s : State) :
    Nat.iterate tick v.length { s with walk := v } = if v = [] then { s with walk := [] } else runMicros v s := by
  induction v generalizing s with
  | nil => rfl
  | cons m v ih =>
    simp only [List.length_cons, Function.iterate_succ_apply, reduceCtorEq, if_false, runMicros]
    rw [show tick { s with walk := m :: v } = { leave m s with walk := v } from leave_walk m s v,
      leave_walk m s v, ih]
    split
    · next h => subst h; rfl
    · cases v with
      | nil => contradiction
      | cons m' v => simp only [runMicros]

/-- Leaving a phase appends at most one event and keeps the rest of the trace. -/
theorem leave_trace (m : Micro) (s : State) :
    ∃ new, (leave m s).trace = s.trace ++ new ∧ new.length ≤ 1 := by
  cases m with
  | desel next => cases next with
    | none => exact ⟨_, rfl, by simp⟩
    | some tx => cases tx <;> exact ⟨_, rfl, by simp⟩
  | rdata dest k => cases dest <;> exact ⟨_, rfl, by simp⟩
  | finish how =>
    refine ⟨[], ?_, by simp⟩
    cases how <;> simp only [leave, State.finish, List.append_nil] <;> try rfl
    · simp only [State.checkIdentity]; split <;> rfl
    · simp only [State.decodeSample]; split <;> rfl
  | _ => exact ⟨_, rfl, by simp⟩

/-- No phase changes the parameters. -/
@[simp] theorem leave_cfg (m : Micro) (s : State) : (leave m s).cfg = s.cfg := by
  cases m with
  | desel next => cases next with
    | none => rfl
    | some tx => cases tx <;> rfl
  | rdata dest k => cases dest <;> rfl
  | finish how =>
    cases how <;> try rfl
    · simp only [leave, State.finish, State.checkIdentity]; split <;> rfl
    · simp only [leave, State.finish, State.decodeSample]; split <;> rfl
  | _ => rfl

theorem low_of_mux (h : Nibble) (l : Nibble) : (h ++ l : Byte).extractLsb' 0 4 = l := by
  revert h l; decide

/-- The first data write of SEND with its pulse (42_display R183). -/
theorem leaveAll_firstPulse (b : DisplayByte) (s : State) :
    leaveAll [.rs b.target, .d1 b.value, .e1h, .w1, .e1l] s =
      { s with
        trace := s.trace ++ [.rs (rsLevel b.target), dataEvent s.nibble .hi b.value, .en true,
          .dly .pulse, .en false]
        rs := rsLevel b.target
        en := false
        db := muxLines s.nibble .hi b.value s.db
        pseq := afterE1L s.nibble } := by
  simp only [leaveAll_cons, leaveAll_nil, leave, State.emit, List.append_assoc, List.cons_append,
    List.nil_append]

/-- The second data write of SEND with its pulse, in nibble mode (42_display R183). -/
theorem leaveAll_secondPulse (v : Byte) (s : State) :
    leaveAll [.d2 v, .e2h, .w2, .e2l] s =
      { s with
        trace := s.trace ++ [dataEvent s.nibble .lo v, .en true, .dly .pulse, .en false]
        en := false
        db := muxLines s.nibble .lo v s.db
        pseq := .settle } := by
  simp only [leaveAll_cons, leaveAll_nil, leave, State.emit, List.append_assoc, List.cons_append,
    List.nil_append]

/-- SEND of one byte, as a whole (42_display R183). -/
theorem leaveAll_sendWalk (b : DisplayByte) (more : Bool) (s : State) :
    leaveAll (sendWalk s.nibble b more) s =
      { s with
        trace := s.trace ++ sendEvents s.nibble b
        rs := rsLevel b.target
        en := false
        db := linesAfterSend s.nibble s.db b.value
        pseq := nextBytePhase more } := by
  cases hn : s.nibble
  · rw [show sendWalk false b more =
      [.rs b.target, .d1 b.value, .e1h, .w1, .e1l] ++ [.settle b more] from rfl,
      leaveAll_append, leaveAll_firstPulse]
    simp only [leaveAll_cons, leaveAll_nil, leave, State.emit, hn, sendEvents, linesAfterSend, dataEvent,
      muxLines, List.append_assoc, List.cons_append, List.nil_append, Bool.false_eq_true, if_false]
  · rw [show sendWalk true b more =
      [.rs b.target, .d1 b.value, .e1h, .w1, .e1l] ++ ([.d2 b.value, .e2h, .w2, .e2l] ++ [.settle b more])
      from rfl, leaveAll_append, leaveAll_append, leaveAll_firstPulse, leaveAll_secondPulse]
    simp only [leaveAll_cons, leaveAll_nil, leave, State.emit, hn, sendEvents, linesAfterSend, dataEvent,
      muxLines, halfOf, low_of_mux, List.append_assoc, List.cons_append, List.nil_append, if_true]

/-- A sequence of display bytes, as a whole. -/
theorem leaveAll_sendsWalk (bytes : List DisplayByte) (s : State) (h : bytes ≠ []) :
    leaveAll (sendsWalk s.nibble bytes) s =
      { s with
        trace := s.trace ++ bytes.flatMap (sendEvents s.nibble)
        rs := selectAfterSends s.rs bytes
        en := false
        db := linesAfterSends s.nibble s.db bytes
        pseq := .idle } := by
  induction bytes generalizing s with
  | nil => exact absurd rfl h
  | cons b bytes ih =>
    rw [sendsWalk, leaveAll_append, leaveAll_sendWalk]
    cases bytes with
    | nil => simp [sendsWalk, nextBytePhase, selectAfterSends, linesAfterSends]
    | cons c bytes =>
      have := ih
        { s with
          trace := s.trace ++ sendEvents s.nibble b
          rs := rsLevel b.target
          en := false
          db := linesAfterSend s.nibble s.db b.value
          pseq := nextBytePhase (!(c :: bytes).isEmpty) } (by simp)
      simp only at this
      rw [this]
      simp [selectAfterSends, linesAfterSends]

/-- Bytes written to PB from index `first` on. -/
def memWriteAll (first : Nat) : List Byte → List Host.Cell → List Host.Cell
  | [], m => m
  | b :: rest, m => memWriteAll (first + 1) rest (memWrite first b m)

theorem memRead_memWriteAll (first j : Nat) (bytes : List Byte) (m : List Host.Cell) :
    memRead j (memWriteAll first bytes m) =
      if first ≤ j ∧ j < first + bytes.length then bytes[j - first]? else memRead j m := by
  induction bytes generalizing first m with
  | nil => simp only [memWriteAll, List.length_nil]; rw [if_neg (by omega)]
  | cons b bytes ih =>
    rw [memWriteAll, ih, memRead_memWrite]
    simp only [List.length_cons]
    by_cases h1 : first + 1 ≤ j ∧ j < first + 1 + bytes.length
    · rw [if_pos h1, if_pos (by omega), show j - first = (j - (first + 1)) + 1 by omega]; rfl
    · rw [if_neg h1]
      by_cases h2 : j = first
      · subst h2; simp
      · rw [if_neg h2, if_neg (by omega)]

theorem memWf_memWriteAll (first : Nat) (bytes : List Byte) {m : List Host.Cell} (h : memWf m = true) :
    memWf (memWriteAll first bytes m) = true := by
  induction bytes generalizing first m with
  | nil => exact h
  | cons b bytes ih => exact ih (first + 1) (memWf_memWrite first b h)

/-- The data phases of a read into PB, as a whole (30_encoding R108). -/
theorem leaveAll_readPhases_pb (first n : Nat) (s : State) :
    leaveAll (readPhases .pb first n) s =
      { s with
        trace := s.trace ++ (List.range n).map (fun j => .xfer s.cfg.fill (s.answer j))
        busIn := s.busIn.drop n
        xfers := s.xfers + n
        pb := memWriteAll first ((List.range n).map s.answer) s.pb
        rseq := if n = 0 then s.rseq else nextReadPhase s.tCnt (first + n - 1) } := by
  induction n generalizing first s with
  | zero => simp [readPhases, memWriteAll]
  | succ n ih =>
    rw [readPhases, leaveAll_cons, ih]
    have ha : (leave (.rdata .pb first) s).answer = fun k => s.answer (k + 1) :=
      funext (answer_afterXfer s s.cfg.fill)
    simp only [leave_cfg, ha, List.range_succ_eq_map, List.map_cons, List.map_map]
    simp only [leave, State.afterXfer, State.storeRead, memWriteAll, Function.comp_def]
    rw [if_neg (Nat.succ_ne_zero n)]
    cases n with
    | zero => simp [memWriteAll]
    | succ n =>
      have h1 : s.xfers + 1 + (n + 1) = s.xfers + (n + 1 + 1) := by omega
      have h2 : first + 1 + (n + 1) - 1 = first + (n + 1 + 1) - 1 := by omega
      simp [h1, h2]

/-- The header byte assembled by OR is the three fields side by side (30_encoding R106, R121 (a)). -/
theorem headerByte_eq_headerWord (dir mb : Bool) (addr : RegAddr) :
    headerByte dir mb addr = headerWord dir mb addr := by
  revert dir mb addr; decide

end Sys2Proof.Machine
end

