-- ==== Sys2Proof/Laws/Frames.lean ====
section
/-!
SUPPORT. What a whole frame on the bus and a whole display operation do to the state: one lemma per walk, which
the proofs about operations cite instead of unfolding the sequencer.
-/

namespace Sys2Proof.Machine

/-- R_SEL and R_HDR left: chip-select asserted, the header exchanged (10_state R44). -/
theorem leave_header (s : State) :
    leave .hdr (leave .sel s) =
      { s with
        trace := s.trace ++ [.cs true, .xfer (headerByte s.tDir s.tMb s.tAddr) (s.answer 0)]
        busIn := s.busIn.drop 1
        xfers := s.xfers + 1
        cs := true
        rseq := .data 0 } := by
  simp only [leave, State.afterXfer, List.drop_one, State.emit, List.append_assoc, List.cons_append,
    List.nil_append]
  rfl

/-- A read frame into PB that ends idle, as a whole (30_encoding R108). -/
theorem leaveAll_readWalk_pb (n : Nat) (s : State) :
    leaveAll (readWalk .pb n none) s =
      { s with
        trace := s.trace ++ ([.cs true, .xfer (headerByte s.tDir s.tMb s.tAddr) (s.answer 0)] ++
          (List.range n).map (fun j => .xfer s.cfg.fill (s.answer (1 + j))) ++ [.cs false])
        busIn := s.busIn.drop (1 + n)
        xfers := s.xfers + (1 + n)
        pb := memWriteAll 0 ((List.range n).map (fun j => s.answer (1 + j))) s.pb
        cs := false
        rseq := .idle } := by
  have ha : (leave .hdr (leave .sel s)).answer = fun j => s.answer (1 + j) := by
    rw [leave_header]
    exact funext fun j => answer_of_advanced 1 j rfl rfl
  rw [readWalk, leaveAll_cons, leaveAll_cons, leaveAll_append, leaveAll_readPhases_pb, ha, leave_header]
  simp only [leaveAll_cons, leaveAll_nil, leave, State.emit, List.append_assoc,
    List.cons_append, List.nil_append, Nat.add_assoc, List.drop_drop]

/-- The one data phase of a read of one byte (10_state R44). -/
theorem leave_readByte (dest : ReadDest) (s : State) :
    leave (.rdata dest 0) (leave .hdr (leave .sel s)) =
      { State.storeRead
          { s with
            trace := s.trace ++ [.cs true, .xfer (headerByte s.tDir s.tMb s.tAddr) (s.answer 0),
              .xfer s.cfg.fill (s.answer 1)]
            busIn := s.busIn.drop 2
            xfers := s.xfers + 2
            cs := true } dest 0 (s.answer 1) with
        rseq := nextReadPhase s.tCnt 0 } := by
  have ha : (leave .hdr (leave .sel s)).answer 0 = s.answer 1 := by
    rw [leave_header]; exact answer_of_advanced 1 0 rfl rfl
  rw [leave_header] at ha ⊢
  cases dest <;>
  simp only [leave, State.afterXfer, State.storeRead, ha, List.append_assoc, List.cons_append,
    List.nil_append, Nat.add_assoc, Nat.reduceAdd, ← List.drop_one, List.drop_drop]

/-- A read frame of one byte into `idval` that ends idle (41_sensor R160). -/
theorem leaveAll_readWalk_idval (s : State) :
    leaveAll (readWalk .idval 1 none) s =
      { s with
        trace := s.trace ++ [.cs true, .xfer (headerByte s.tDir s.tMb s.tAddr) (s.answer 0),
          .xfer s.cfg.fill (s.answer 1), .cs false]
        busIn := s.busIn.drop 2
        xfers := s.xfers + 2
        idval := s.answer 1
        hasId := true
        cs := false
        rseq := .idle } := by
  rw [show readWalk .idval 1 none = [.sel, .hdr, .rdata .idval 0, .desel none] from rfl]
  simp only [leaveAll_cons, leaveAll_nil, leave_readByte]
  simp only [leave, State.emit, State.storeRead, List.append_assoc, List.cons_append, List.nil_append]

/-- A read frame of one byte into `pwrval`, up to leaving R_DESEL (41_sensor R163). -/
theorem leaveAll_readWalk_pwrval (next : Option Tx) (s : State) :
    leaveAll (readWalk .pwrval 1 next) s = leave (.desel next)
      { s with
        trace := s.trace ++ [.cs true, .xfer (headerByte s.tDir s.tMb s.tAddr) (s.answer 0),
          .xfer s.cfg.fill (s.answer 1)]
        busIn := s.busIn.drop 2
        xfers := s.xfers + 2
        pwrval := s.answer 1
        hasPwr := true
        cs := true
        rseq := nextReadPhase s.tCnt 0 } := by
  rw [show readWalk .pwrval 1 next = [.sel, .hdr, .rdata .pwrval 0, .desel next] from rfl]
  simp only [leaveAll_cons, leaveAll_nil, leave_readByte, State.storeRead]

/-- A write frame, up to leaving R_DESEL (30_encoding R107). -/
theorem leaveAll_writeWalk (next : Option Tx) (s : State) :
    leaveAll (writeWalk next) s = leave (.desel next)
      { s with
        trace := s.trace ++ [.cs true, .xfer (headerByte s.tDir s.tMb s.tAddr) (s.answer 0),
          .xfer s.tByte (s.answer 1)]
        busIn := s.busIn.drop 2
        xfers := s.xfers + 2
        cs := true
        rseq := .desel } := by
  have ha : (leave .hdr (leave .sel s)).answer 0 = s.answer 1 := by
    rw [leave_header]; exact answer_of_advanced 1 0 rfl rfl
  rw [leave_header] at ha
  simp only [writeWalk, leaveAll_cons, leaveAll_nil, leave_header]
  congr 1
  simp only [leave, State.afterXfer, ha, List.append_assoc, List.cons_append,
    List.nil_append, Nat.add_assoc, Nat.reduceAdd, ← List.drop_one, List.drop_drop]

/-- An accepted bus operation runs its frames and then ends. -/
theorem drain_acceptBus (s : State) (tx : Tx) (w : List Micro) (how : Finish) :
    drain (s.acceptBus tx (w ++ [.finish how])) =
      { (leaveAll w { s.loadTx tx with busy := true, rseq := .sel }).finish how with walk := [] } := by
  rw [drain, if_pos (by simp), runMicros_eq_leaveAll _ _ (by simp)]
  simp only [acceptBus_walk]
  rw [show s.acceptBus tx (w ++ [.finish how]) =
    { ({ s.loadTx tx with busy := true, rseq := .sel } : State) with walk := w ++ [.finish how] } from rfl,
    leaveAll_walk, leaveAll_append]
  simp [leave]

/-- An accepted display operation sends its bytes and then ends (42_display R183). -/
theorem drain_acceptDisplay (s : State) (bytes : List DisplayByte) (how : Finish) (h : bytes ≠ []) :
    drain (s.acceptDisplay bytes how) =
      { ({ s.afterSends bytes with busy := true } : State).finish how with walk := [] } := by
  rw [drain, if_pos (by simp), runMicros_eq_leaveAll _ _ (by simp)]
  simp only [acceptDisplay_walk]
  have h1 := leaveAll_sendsWalk bytes (s.acceptDisplay bytes how) h
  simp only [acceptDisplay_nibble] at h1
  rw [leaveAll_append, h1]
  have h2 := leave_walk (.finish how) ({ s.afterSends bytes with busy := true } : State)
    (sendsWalk s.nibble bytes ++ [.finish how])
  simp only [leaveAll_cons, leaveAll_nil]
  exact congrArg (fun t : State => { t with walk := [] }) h2

/-- SEND of one byte run by itself (42_display R183). -/
theorem runMicros_sendWalk (s : State) (b : DisplayByte) (hb : s.busy = false) :
    runMicros (sendWalk s.nibble b false) { s with pseq := .rs } = s.afterSends [b] := by
  rw [runMicros_eq_leaveAll _ _ (by cases s.nibble <;> simp [sendWalk])]
  have h := leaveAll_sendWalk b false { s with pseq := .rs }
  simp only at h
  rw [h]
  simp [State.afterSends, nextBytePhase, selectAfterSends, linesAfterSends, hb]

end Sys2Proof.Machine
end

