-- ==== Sys2Proof/Laws/PerInstr.lean ====
section
/-!
SUPPORT. Laws about instructions as syntax. `RowPattern`: the word the encoder writes for an instruction has the
layer and the fixed bits of its row of spec/opcode_table.json (30_encoding R122).
-/

namespace Sys2Proof.Laws

/-- The layers of the opcode table (its `format`). -/
inductive Layer where
  | host
  | bus
  | command
  | data
deriving DecidableEq, Repr

/-- A fixed field of a row: bits hi down to lo hold `value`. -/
structure FixedField where
  hi : Nat
  lo : Nat
  value : Nat
deriving DecidableEq, Repr

/-- A row's format and fixed fields. -/
structure TableRow where
  layer : Layer
  fixed : List FixedField
deriving DecidableEq, Repr

/-- The rows of spec/opcode_table.json, by constructor. -/
def tableRow : Instr → TableRow
  | .wrreg _ _ => ⟨.host, [⟨19, 16, 1⟩]⟩
  | .rdreg _ _ => ⟨.host, [⟨19, 16, 2⟩]⟩
  | .idcheck => ⟨.host, [⟨19, 16, 3⟩]⟩
  | .activate => ⟨.host, [⟨19, 16, 4⟩]⟩
  | .sample => ⟨.host, [⟨19, 16, 5⟩]⟩
  | .setup _ => ⟨.host, [⟨19, 16, 8⟩]⟩
  | .wrbyte _ _ => ⟨.host, [⟨19, 16, 9⟩]⟩
  | .movecur _ _ => ⟨.host, [⟨19, 16, 10⟩]⟩
  | .wrstr => ⟨.host, [⟨19, 16, 11⟩]⟩
  | .ldglyph _ => ⟨.host, [⟨19, 16, 12⟩]⟩
  | .showcur => ⟨.host, [⟨19, 16, 13⟩]⟩
  | .hidecur => ⟨.host, [⟨19, 16, 14⟩]⟩
  | .reserved0 => ⟨.host, [⟨19, 16, 0⟩]⟩
  | .reserved6 => ⟨.host, [⟨19, 16, 6⟩]⟩
  | .reserved7 => ⟨.host, [⟨19, 16, 7⟩]⟩
  | .reservedF => ⟨.host, [⟨19, 16, 15⟩]⟩
  | .hdrWrite _ => ⟨.bus, [⟨7, 6, 0⟩]⟩
  | .hdrRead1 _ => ⟨.bus, [⟨7, 6, 2⟩]⟩
  | .hdrReadN _ => ⟨.bus, [⟨7, 6, 3⟩]⟩
  | .hdrReserved _ => ⟨.bus, [⟨7, 6, 1⟩]⟩
  | .cmdClear => ⟨.command, [⟨7, 0, 1⟩]⟩
  | .cmdHome => ⟨.command, [⟨7, 0, 2⟩]⟩
  | .cmdEntry => ⟨.command, [⟨7, 0, 6⟩]⟩
  | .cmdDispOff => ⟨.command, [⟨7, 0, 12⟩]⟩
  | .cmdDispOn => ⟨.command, [⟨7, 0, 15⟩]⟩
  | .cmdInit4 => ⟨.command, [⟨7, 0, 40⟩]⟩
  | .cmdInit8 => ⟨.command, [⟨7, 0, 56⟩]⟩
  | .cmdSetGlyphAddr _ => ⟨.command, [⟨2, 0, 0⟩, ⟨7, 6, 1⟩]⟩
  | .cmdSetCursor _ => ⟨.command, [⟨7, 7, 1⟩]⟩
  | .dataByte _ => ⟨.data, []⟩

/-- The layer of an encoded word. -/
def layerOf : Encoded → Layer
  | .host _ => .host
  | .bus _ => .bus
  | .command _ => .command
  | .data _ => .data

/-- The bits of an encoded word as one number, bit 0 least significant. -/
def bitsOf : Encoded → Nat
  | .host w => w.toNat
  | .bus b => b.toNat
  | .command b => b.toNat
  | .data b => b.toNat

/-- A fixed field holds its value. -/
def holdsField (bits : Nat) (f : FixedField) : Bool :=
  decide (bits / 2 ^ f.lo % 2 ^ (f.hi - f.lo + 1) = f.value)

theorem hostWord_toNat (op : BitVec 4) (a b : Byte) :
    (hostWord op a b).toNat = op.toNat * 65536 + a.toNat * 256 + b.toNat := by
  have ha := a.isLt
  have hb := b.isLt
  simp only [hostWord, BitVec.toNat_append, Nat.shiftLeft_eq]
  rw [← Nat.shiftLeft_eq, ← Nat.shiftLeft_eq, ← Nat.shiftLeft_add_eq_or_of_lt ha,
    ← Nat.shiftLeft_add_eq_or_of_lt hb, Nat.shiftLeft_eq, Nat.shiftLeft_eq]
  omega

theorem hostWord_holdsOp (op : BitVec 4) (a b : Byte) :
    holdsField (hostWord op a b).toNat ⟨19, 16, op.toNat⟩ = true := by
  have ha := a.isLt
  have hb := b.isLt
  have hop := op.isLt
  simp only [holdsField, hostWord_toNat, decide_eq_true_eq]
  omega

/-- The encoded word has its row's layer and fixed bits. -/
def RowPattern.Statement (i : Instr) : Prop :=
  i.wellFormed = true →
    layerOf (encode i) = (tableRow i).layer ∧
    (tableRow i).fixed.all (holdsField (bitsOf (encode i))) = true

/-- A host command word meets a row whose one fixed field is its operation code. -/
theorem rowPattern_host {i : Instr} {op : BitVec 4} {a b : Byte} (he : encode i = .host (hostWord op a b))
    (hr : tableRow i = ⟨.host, [⟨19, 16, op.toNat⟩]⟩) : RowPattern.Statement i := by
  intro _
  rw [he, hr]
  exact ⟨rfl, by simp [bitsOf, hostWord_holdsOp]⟩

theorem RowPattern.wrreg (address : Nat) (byte : Byte) : RowPattern.Statement (.wrreg address byte) :=
  rowPattern_host rfl rfl

theorem RowPattern.rdreg (address count : Nat) : RowPattern.Statement (.rdreg address count) :=
  rowPattern_host rfl rfl

theorem RowPattern.idcheck : RowPattern.Statement .idcheck :=
  rowPattern_host rfl rfl

theorem RowPattern.activate : RowPattern.Statement .activate :=
  rowPattern_host rfl rfl

theorem RowPattern.sample : RowPattern.Statement .sample :=
  rowPattern_host rfl rfl

theorem RowPattern.setup (nibbleMode : Bool) : RowPattern.Statement (.setup nibbleMode) :=
  rowPattern_host rfl rfl

theorem RowPattern.wrbyte (byte : Byte) (target : Target) : RowPattern.Statement (.wrbyte byte target) :=
  rowPattern_host rfl rfl

theorem RowPattern.movecur (row col : Nat) : RowPattern.Statement (.movecur row col) :=
  rowPattern_host rfl rfl

theorem RowPattern.wrstr : RowPattern.Statement .wrstr :=
  rowPattern_host rfl rfl

theorem RowPattern.ldglyph (slot : Nat) : RowPattern.Statement (.ldglyph slot) :=
  rowPattern_host rfl rfl

theorem RowPattern.showcur : RowPattern.Statement .showcur :=
  rowPattern_host rfl rfl

theorem RowPattern.hidecur : RowPattern.Statement .hidecur :=
  rowPattern_host rfl rfl

theorem RowPattern.reserved0 : RowPattern.Statement .reserved0 :=
  rowPattern_host rfl rfl

theorem RowPattern.reserved6 : RowPattern.Statement .reserved6 :=
  rowPattern_host rfl rfl

theorem RowPattern.reserved7 : RowPattern.Statement .reserved7 :=
  rowPattern_host rfl rfl

theorem RowPattern.reservedF : RowPattern.Statement .reservedF :=
  rowPattern_host rfl rfl

theorem RowPattern.hdrWrite (addr : RegAddr) : RowPattern.Statement (.hdrWrite addr) := by
  intro _; revert addr; decide

theorem RowPattern.hdrRead1 (addr : RegAddr) : RowPattern.Statement (.hdrRead1 addr) := by
  intro _; revert addr; decide

theorem RowPattern.hdrReadN (addr : RegAddr) : RowPattern.Statement (.hdrReadN addr) := by
  intro _; revert addr; decide

theorem RowPattern.hdrReserved (addr : RegAddr) : RowPattern.Statement (.hdrReserved addr) := by
  intro _; revert addr; decide

theorem RowPattern.cmdClear : RowPattern.Statement .cmdClear := fun _ => by decide

theorem RowPattern.cmdHome : RowPattern.Statement .cmdHome := fun _ => by decide

theorem RowPattern.cmdEntry : RowPattern.Statement .cmdEntry := fun _ => by decide

theorem RowPattern.cmdDispOff : RowPattern.Statement .cmdDispOff := fun _ => by decide

theorem RowPattern.cmdDispOn : RowPattern.Statement .cmdDispOn := fun _ => by decide

theorem RowPattern.cmdInit4 : RowPattern.Statement .cmdInit4 := fun _ => by decide

theorem RowPattern.cmdInit8 : RowPattern.Statement .cmdInit8 := fun _ => by decide

theorem RowPattern.cmdSetGlyphAddr (slot : BitVec 3) : RowPattern.Statement (.cmdSetGlyphAddr slot) := by
  intro _; revert slot; decide

theorem RowPattern.cmdSetCursor (position : BitVec 7) : RowPattern.Statement (.cmdSetCursor position) := by
  intro _; revert position; decide

theorem RowPattern.dataByte (value : Byte) : RowPattern.Statement (.dataByte value) := fun _ => ⟨rfl, rfl⟩

end Sys2Proof.Laws
end

