-- ==== Sys2Proof/Tests/Slice0.lean ====
section
/-!
SUPPORT. Tests: the well-formedness checks, words written out from the encodings of 30_encoding, single
operations with the results of 95_test_vectors, and for each statement that has hypotheses concrete values that
meet them (`test_meets_<statement>`). Expected values come from the spec, its section being named.
-/

namespace Sys2Proof.Tests

open Sys2Proof.Machine

/-! ### Helpers -/

/-- The reset state with the illustrative parameters of 95_test_vectors and fixed answers of the bus. -/
def idle (answers : List Byte) : State :=
  { State.reset with cfg := Params.illustrative, busIn := answers }

/-- A set-up display in the given mode, with 2 rows of 4 columns (95_test_vectors P3), PB[0..7] written. -/
def ready (nibble : Bool) : State :=
  { State.reset with
    cfg := { Params.illustrative with rows := 2, cols := 4 }
    pstate := .ready, oe := true, cursor := true, nibble := nibble
    pb := [(0, 0x4F), (1, 0x4B), (2, 0x20), (3, 0x20), (4, 0x0E), (5, 0x04), (6, 0x00), (7, 0x00)] }

/-- A halted block. -/
def stopped : State := { idle [] with halted := true }

/-- The trace of a next state. -/
def traceOf (r : Result) : Option (List Event) := (nextOf r).map State.trace

/-- A result is a next state with this status and nread. -/
def endsIn (r : Result) (code : Status) (n : Byte) : Bool :=
  match r with
  | .next t => decide (t.status = code ∧ t.nread = n)
  | .fault _ => false
  | .refused _ => false

/-- A result is a next state. -/
def goesOn (r : Result) : Bool := (nextOf r).isSome

/-- A result is this fault. -/
def faultsWith (r : Result) (f : Fault) : Bool :=
  match r with
  | .fault g => decide (g = f)
  | .next _ => false
  | .refused _ => false

/-- A result is this refusal. -/
def refusedWith (r : Result) (f : Refusal) : Bool :=
  match r with
  | .refused g => decide (g = f)
  | .next _ => false
  | .fault _ => false

/-- The events of one byte in byte mode (95_test_vectors 2.8). -/
def byteSend (select : Bool) (v : Byte) (settle : Delay) : List Event :=
  [.rs select, .dbf v, .en true, .dly .pulse, .en false, .dly settle]

/-- The events of one byte in nibble mode (95_test_vectors 2.8). -/
def nibbleSend (select : Bool) (hi lo : Nibble) (settle : Delay) : List Event :=
  [.rs select, .dbh hi, .en true, .dly .pulse, .en false, .dbh lo, .en true, .dly .pulse, .en false, .dly settle]

/-! ### Well-formedness: one ill-formed term for each check (R100: operand fields of eight bits) -/

theorem test_wf_wrreg_address : (Instr.wrreg 256 0).wellFormed = false := by decide
theorem test_wf_rdreg_address : (Instr.rdreg 256 1).wellFormed = false := by decide
theorem test_wf_rdreg_count : (Instr.rdreg 0 256).wellFormed = false := by decide
theorem test_wf_movecur_row : (Instr.movecur 256 0).wellFormed = false := by decide
theorem test_wf_movecur_col : (Instr.movecur 0 256).wellFormed = false := by decide
theorem test_wf_ldglyph_slot : (Instr.ldglyph 256).wellFormed = false := by decide
theorem test_wf_accepts_out_of_range : (Instr.wrreg 255 0).wellFormed = true := by decide

/-! ### Decoding: words written out bit by bit (95_test_vectors 2.1, 2.2; 30_encoding R105, R109, R111 to R113) -/

theorem test_decode_wrreg : decode (.host 0b0001_00101101_00001000) = .ok (.wrreg 0x2D 0x08) := by decide
theorem test_decode_rdreg : decode (.host 0b0010_00110010_00000110) = .ok (.rdreg 0x32 6) := by decide
theorem test_decode_idcheck : decode (.host 0b0011_11111111_11111111) = .ok .idcheck := by decide
theorem test_decode_activate : decode (.host 0b0100_00000000_00000000) = .ok .activate := by decide
theorem test_decode_sample : decode (.host 0b0101_00000000_00000000) = .ok .sample := by decide
theorem test_decode_setup_nibble : decode (.host 0b1000_11111111_00000000) = .ok (.setup true) := by decide
theorem test_decode_setup_byte : decode (.host 0b1000_11111110_01010101) = .ok (.setup false) := by decide
theorem test_decode_wrbyte_data : decode (.host 0b1001_10100101_11111111) = .ok (.wrbyte 0xA5 .data) := by decide
theorem test_decode_wrbyte_cmd : decode (.host 0b1001_10100101_11111110) = .ok (.wrbyte 0xA5 .command) := by decide
theorem test_decode_movecur : decode (.host 0b1010_00000001_00000101) = .ok (.movecur 1 5) := by decide
theorem test_decode_wrstr : decode (.host 0b1011_00000000_00000000) = .ok .wrstr := by decide
theorem test_decode_ldglyph : decode (.host 0b1100_00000001_00000000) = .ok (.ldglyph 1) := by decide
theorem test_decode_showcur : decode (.host 0b1101_00000000_00000000) = .ok .showcur := by decide
theorem test_decode_hidecur : decode (.host 0b1110_00000000_00000000) = .ok .hidecur := by decide
theorem test_decode_reserved0 : decode (.host 0b0000_00000000_00000000) = .ok .reserved0 := by decide
theorem test_decode_reserved6 : decode (.host 0b0110_00000000_00000000) = .ok .reserved6 := by decide
theorem test_decode_reserved7 : decode (.host 0b0111_10101011_11001101) = .ok .reserved7 := by decide
theorem test_decode_reservedF : decode (.host 0b1111_11111111_11111111) = .ok .reservedF := by decide
theorem test_decode_hdrWrite : decode (.bus 0b00_101101) = .ok (.hdrWrite 0x2D) := by decide
theorem test_decode_hdrRead1 : decode (.bus 0b10_111111) = .ok (.hdrRead1 0x3F) := by decide
theorem test_decode_hdrReadN : decode (.bus 0b11_110010) = .ok (.hdrReadN 0x32) := by decide
theorem test_decode_hdrReserved : decode (.bus 0b01_000101) = .ok (.hdrReserved 5) := by decide
theorem test_decode_cmdClear : decode (.command 0b00000001) = .ok .cmdClear := by decide
theorem test_decode_cmdHome : decode (.command 0b00000010) = .ok .cmdHome := by decide
theorem test_decode_cmdEntry : decode (.command 0b00000110) = .ok .cmdEntry := by decide
theorem test_decode_cmdDispOff : decode (.command 0b00001100) = .ok .cmdDispOff := by decide
theorem test_decode_cmdDispOn : decode (.command 0b00001111) = .ok .cmdDispOn := by decide
theorem test_decode_cmdInit4 : decode (.command 0b00101000) = .ok .cmdInit4 := by decide
theorem test_decode_cmdInit8 : decode (.command 0b00111000) = .ok .cmdInit8 := by decide
theorem test_decode_cmdSetGlyphAddr : decode (.command 0b01_111_000) = .ok (.cmdSetGlyphAddr 7) := by decide
theorem test_decode_cmdSetCursor : decode (.command 0b1_1000101) = .ok (.cmdSetCursor 0x45) := by decide
theorem test_decode_dataByte : decode (.data 0b00000001) = .ok (.dataByte 1) := by decide
theorem test_decode_not_in_table : decode (.command 0b00000011) = .error (.commandNotInTable 3) := by decide
/-- 95_test_vectors 2.1: SETUP uses a[0] alone, WRBYTE a and b[0]. -/
theorem test_ignored_bits_cleared :
    encode (decodeHost 0x8FF00) = .host 0x80100 ∧ encode (decodeHost 0x9A5FF) = .host 0x9A501 ∧
    encode (decodeHost 0x3FFFF) = .host 0x30000 := by decide

theorem test_table_word_too_big : decodeTableWord 24 0x100000 = none := by decide

/-- The table's own words of the 8-bit rows: the listed commands and the glyph address are read as commands,
every other byte as a header (log 7). -/
theorem test_table_bytes :
    decodeTableWord 8 0x0C = some .cmdDispOff ∧ decodeTableWord 8 0x78 = some (.cmdSetGlyphAddr 7) ∧
    decodeTableWord 8 0x2D = some (.hdrWrite 0x2D) ∧ decodeTableWord 8 0x41 = some (.hdrReserved 1) ∧
    decodeTableWord 8 0xC5 = some (.hdrReadN 5) := by decide

/-! ### The Register Bus Client (95_test_vectors 2.3 to 2.7) -/

theorem test_wrreg_frame :
    traceOf (exec (.wrreg 0x3F 0xFF) (idle [0x11, 0x22])) =
      some [.cs true, .xfer 0x3F 0x11, .xfer 0xFF 0x22, .cs false] := by decide

theorem test_wrreg_bad_address : endsIn (exec (.wrreg 0x40 0x01) (idle [])) .invalidArgument 0 = true := by decide

theorem test_rdreg_burst :
    traceOf (exec (.rdreg 0x32 2) (idle [0x00, 0x34, 0x12])) =
      some [.cs true, .xfer 0xF2 0x00, .xfer 0x00 0x34, .xfer 0x00 0x12, .cs false] := by decide

theorem test_rdreg_pb :
    (nextOf (exec (.rdreg 0x32 2) (idle [0x00, 0x34, 0x12]))).map (fun t => (t.pbAt 0, t.pbAt 1, t.nread)) =
      some (some 0x34, some 0x12, 2) := by decide

theorem test_idcheck_match :
    (nextOf (exec .idcheck (idle [0x11, 0xE5]))).map (fun t => (t.trace, t.halted)) =
      some ([.cs true, .xfer 0x80 0x11, .xfer 0x00 0xE5, .cs false], false) := by decide

theorem test_idcheck_mismatch :
    (nextOf (exec .idcheck (idle [0x00, 0xE4]))).map (fun t => (t.status, t.nread, t.idval, t.halted)) =
      some (.identityMismatch, 1, 0xE4, true) := by decide

theorem test_activate_keeps_bits :
    traceOf (exec .activate (idle [0, 0xF7, 0, 0])) =
      some [.cs true, .xfer 0xAD 0, .xfer 0x00 0xF7, .cs false,
        .cs true, .xfer 0x2D 0, .xfer 0xFF 0, .cs false] := by decide

theorem test_activate_confirm :
    (nextOf (exec .activate { idle [0xFF, 0x41, 0xFF, 0xFF, 0xFF, 0x49] with
        cfg := { Params.illustrative with actConfirm := true } })).map (fun t => (t.trace, t.pwrval)) =
      some ([.cs true, .xfer 0xAD 0xFF, .xfer 0x00 0x41, .cs false,
        .cs true, .xfer 0x2D 0xFF, .xfer 0x49 0xFF, .cs false,
        .cs true, .xfer 0xAD 0xFF, .xfer 0x00 0x49, .cs false], 0x49) := by decide

theorem test_sample_signed :
    (nextOf (exec .sample (idle [0x55, 0xF0, 0xFF, 0x00, 0x80, 0xFF, 0x7F]))).map
      (fun t => (t.x.toInt, t.y.toInt, t.z.toInt)) = some (-16, -32768, 32767) := by decide

theorem test_sample_source_vector :
    (nextOf (exec .sample (idle [0x55, 0x10, 0x00, 0x20, 0x00, 0x30, 0x00]))).map
      (fun t => (t.x.toInt, t.y.toInt, t.z.toInt, t.nread)) = some (16, 32, 48, 6) := by decide

/-- 30_encoding R107: the header row sends the payload byte held. -/
theorem test_hdrWrite :
    traceOf (exec (.hdrWrite 0x2D) { idle [1, 2] with tByte := 0x08 }) =
      some [.cs true, .xfer 0x2D 1, .xfer 0x08 2, .cs false] := by decide

/-- 30_encoding R108. -/
theorem test_hdrRead1 :
    (nextOf (exec (.hdrRead1 0x00) (idle [1, 0xE5]))).map (fun t => (t.trace, t.pbAt 0)) =
      some ([.cs true, .xfer 0x80 1, .xfer 0x00 0xE5, .cs false], some 0xE5) := by decide

/-- 30_encoding R108, R109. -/
theorem test_hdrReadN :
    traceOf (exec (.hdrReadN 0x32) { idle [0, 0x34, 0x12] with tCnt := 2 }) =
      some [.cs true, .xfer 0xF2 0, .xfer 0x00 0x34, .xfer 0x00 0x12, .cs false] := by decide

theorem test_hdrReserved : refusedWith (exec (.hdrReserved 5) (idle [])) .reservedHeader = true := by decide

/-- 70_reset R301: at 1 MHz a frame of two bytes takes 16 microseconds. -/
theorem test_bus_time : busMicrosAtRef [.cs true, .xfer 0x2D 0, .xfer 0x08 0, .cs false] = 16 := by decide

/-- 60_exceptions R255: milliseconds for LONG, microseconds for SHORT; 2000 microseconds are 2 milliseconds. -/
theorem test_delay_primitives :
    primitivesOf Params.illustrative (.dly .long) = [.delayMilliseconds 2] ∧
    primitivesOf Params.illustrative (.dly .short) = [.delayMicroseconds 50] := by decide

/-! ### The Parallel Display Driver (95_test_vectors 2.8 to 2.13) -/

theorem test_setup_nibble :
    traceOf (exec (.setup true) (idle [])) = some (.initLines ::
      (nibbleSend false 0x0 0x2 .long ++ nibbleSend false 0x2 0x8 .short ++ nibbleSend false 0x0 0x1 .long ++
       nibbleSend false 0x0 0xF .short ++ nibbleSend false 0x0 0x6 .short)) := by decide

theorem test_setup_byte_without_home :
    traceOf (exec (.setup false) { idle [] with cfg := { Params.illustrative with byteSetupHome := false } }) =
      some (.initLines :: (byteSend false 0x38 .short ++ byteSend false 0x01 .long ++
        byteSend false 0x0F .short ++ byteSend false 0x06 .short)) := by decide

theorem test_wrbyte_nibble :
    (nextOf (exec (.wrbyte 0xA5 .data) (ready true))).map (fun t => (t.trace, t.db)) =
      some (nibbleSend true 0xA 0x5 .short, 0x50) := by decide

theorem test_wrbyte_data_is_never_slow :
    traceOf (exec (.wrbyte 0x01 .data) (ready false)) = some (byteSend true 0x01 .short) := by decide

theorem test_movecur_last_position :
    traceOf (exec (.movecur 3 19) { ready false with cfg := Params.illustrative }) =
      some (byteSend false 0xE7 .short) := by decide

theorem test_movecur_out_of_range : endsIn (exec (.movecur 0 4) (ready false)) .outOfRange 0 = true := by decide

theorem test_wrstr_nibble :
    traceOf (exec .wrstr (ready true)) = some (nibbleSend true 0x4 0xF .short ++ nibbleSend true 0x4 0xB .short ++
      nibbleSend true 0x2 0x0 .short ++ nibbleSend true 0x2 0x0 .short) := by decide

theorem test_wrstr_missing_byte :
    faultsWith (exec .wrstr { ready true with pb := [(0, 0x4F), (1, 0x4B), (2, 0x20)] }) (.pbNoValue 3) = true := by
  decide

theorem test_ldglyph_last_slot :
    ((traceOf (exec (.ldglyph 7) (ready false))).map (fun es => (es.take 6, es.length))) =
      some (byteSend false 0x78 .short, 54) := by decide

theorem test_ldglyph_bad_slot : endsIn (exec (.ldglyph 8) { ready false with pb := [] }) .outOfRange 0 = true := by decide

theorem test_showcur :
    (nextOf (exec .showcur { ready false with cursor := false })).map (fun t => (t.trace, t.cursor)) =
      some (byteSend false 0x0F .short, true) := by decide

theorem test_hidecur :
    (nextOf (exec .hidecur (ready true))).map (fun t => (t.trace, t.cursor)) =
      some (nibbleSend false 0x0 0xC .short, false) := by decide

/-- 30_encoding R111 to R113, 42_display R183: the display byte rows send their byte. -/
theorem test_display_byte_rows :
    traceOf (exec .cmdClear (ready false)) = some (byteSend false 0x01 .long) ∧
    traceOf (exec .cmdHome (ready false)) = some (byteSend false 0x02 .long) ∧
    traceOf (exec .cmdEntry (ready false)) = some (byteSend false 0x06 .short) ∧
    traceOf (exec .cmdDispOff (ready false)) = some (byteSend false 0x0C .short) ∧
    traceOf (exec .cmdDispOn (ready false)) = some (byteSend false 0x0F .short) ∧
    traceOf (exec .cmdInit4 (ready false)) = some (byteSend false 0x28 .short) ∧
    traceOf (exec .cmdInit8 (ready false)) = some (byteSend false 0x38 .short) ∧
    traceOf (exec (.cmdSetGlyphAddr 7) (ready false)) = some (byteSend false 0x78 .short) ∧
    traceOf (exec (.cmdSetCursor 0x67) (ready false)) = some (byteSend false 0xE7 .short) ∧
    traceOf (exec (.dataByte 0x02) (ready false)) = some (byteSend true 0x02 .short) := by decide

/-! ### Errors and their order (95_test_vectors 2.14) -/

theorem test_reserved_before_halted :
    endsIn (exec .reserved0 stopped) .illegalOp 0 = true ∧ endsIn (exec .reserved6 (idle [])) .illegalOp 0 = true ∧
    endsIn (exec .reserved7 (idle [])) .illegalOp 0 = true ∧ endsIn (exec .reservedF (idle [])) .illegalOp 0 = true := by
  decide

theorem test_halted_before_state : endsIn (exec (.movecur 9 99) stopped) .halted 0 = true := by decide
theorem test_state_before_operands : endsIn (exec (.movecur 9 99) (idle [])) .badState 0 = true := by decide
theorem test_count_and_address_bad : endsIn (exec (.rdreg 0x40 0) (idle [])) .invalidArgument 0 = true := by decide
theorem test_second_setup : endsIn (exec (.setup false) (ready true)) .badState 0 = true := by decide

/-! ### The step -/

/-- 10_state R44: after R_SEL and R_HDR of WRREG 0x2D, 0x08 chip-select is asserted and the header exchanged. -/
theorem test_phase_by_phase :
    (nextOf (beginOp (.wrreg 0x2D 0x08) (idle [0x11]))).map
        (fun s => ((tick (tick s)).trace, (tick (tick s)).rseq, (tick (tick s)).cs, (tick (tick s)).busy)) =
      some ([.cs true, .xfer 0x2D 0x11], .data 0, true, true) := by decide

/-- 70_reset R283: reset in the middle of a frame deasserts chip-select without an event. -/
theorem test_reset_inside_a_frame :
    (nextOf (step { idle [] with inputs := [.reset], busy := true, cs := true, rseq := .hdr, walk := [.hdr] })).map
        (fun t => (t.cs, t.rseq, t.busy, t.trace)) = some (false, .idle, false, []) := by decide

/-- Every host word runs as the first move after reset, with the parameters free. -/
theorem test_first_move_after_reset :
    goesOn (step (State.reset.withFetchWord 24 0x12D08)) = true ∧
    goesOn (step (State.reset.withFetchWord 24 0x23206)) = true ∧
    goesOn (step (State.reset.withFetchWord 24 0x30000)) = true ∧
    goesOn (step (State.reset.withFetchWord 24 0x40000)) = true ∧
    goesOn (step (State.reset.withFetchWord 24 0x50000)) = true ∧
    goesOn (step (State.reset.withFetchWord 24 0x80100)) = true ∧
    goesOn (step (State.reset.withFetchWord 24 0xB0000)) = true ∧
    goesOn (step (State.reset.withFetchWord 24 0xF0000)) = true ∧
    goesOn (step (State.reset.withFetchWord 8 0x00)) = true ∧
    goesOn (step (State.reset.withFetchWord 8 0xC0)) = true ∧
    goesOn (step (State.reset.withFetchWord 8 0x01)) = true := ⟨rfl, rfl, rfl, rfl, rfl, rfl, rfl, rfl, rfl, rfl, rfl⟩

/-! ### Values that meet the hypotheses of the statements -/

theorem test_idle_inv : (idle [1, 2]).Inv := by constructor <;> decide
theorem test_ready_inv : (ready true).Inv := by constructor <;> decide

/-- WRREG 0x2D, 0x08 with two phases left behind: chip-select asserted, a byte to send. -/
def inFlight : State :=
  { idle [] with busy := true, cs := true, tAddr := 0x2D, tCnt := 1, tByte := 0x08, rseq := .data 0
                 walk := [.wdata, .desel none, .finish (.ok 0)] }

theorem test_inFlight_inv : inFlight.Inv := by constructor <;> decide

theorem test_meets_DecodeOfEncode :
    (Instr.rdreg 0xFF 0xFF).wellFormed = true ∧ (Instr.ldglyph 0xFF).wellFormed = true := by decide

theorem test_meets_StepRunsDecoded :
    (∃ rest, ({ idle [] with inputs := [.issue 0x3FFFF] } : State).inputs = .issue 0x3FFFF :: rest ∧
      decode (.host 0x3FFFF) = .ok .idcheck) ∧
    (∃ rest, ({ idle [] with inputs := [.internal (.bus 0xF2), .ret] } : State).inputs = .internal (.bus 0xF2) :: rest ∧
      decode (.bus 0xF2) = .ok (.hdrReadN 0x32)) ∧
    (∃ rest, ({ idle [] with inputs := [.start 0x12D08] } : State).inputs = .start 0x12D08 :: rest ∧
      decode (.host 0x12D08) = .ok (.wrreg 0x2D 0x08)) ∧
    (∃ rest, ({ inFlight with inputs := [.ret, .ret] } : State).inputs = .ret :: rest ∧ inFlight.walk ≠ []) ∧
    (∃ rest, ({ idle [] with inputs := [.ret] } : State).inputs = .ret :: rest ∧ (idle []).walk = []) :=
  ⟨⟨[], by decide⟩, ⟨[.ret], by decide⟩, ⟨[], by decide⟩, ⟨[.ret], by decide⟩, ⟨[], by decide⟩⟩

/-- Two words that differ in ignored bits only, and two that differ in a used one (95_test_vectors 2.1). -/
theorem test_meets_IgnoredBitsDoNotMatter :
    (0x8FF00 : HostWord) &&& usedBits (hostOp 0x8FF00) = 0x80100 &&& usedBits (hostOp 0x80100) ∧
    (0x9A5FE : HostWord) &&& usedBits (hostOp 0x9A5FE) ≠ 0x9A501 &&& usedBits (hostOp 0x9A501) := by decide

theorem test_meets_WaitsWithoutAMove : (idle []).inputs = [] ∧ inFlight.inputs = [] := by decide

theorem test_meets_ExecIsThePhasesInOrder :
    ∃ s1, beginOp (.wrreg 0x3F 0xFF) (idle []) = .next s1 ∧ s1.busy = true := ⟨_, rfl, rfl⟩

theorem test_meets_InFlightUntilItsEnd : inFlight.Inv ∧ 0 < inFlight.walk.length :=
  ⟨test_inFlight_inv, by decide⟩

theorem test_meets_BusyHasNoMove : inFlight.busy = true ∧ isOperation .wrstr = true := by decide

theorem test_meets_ResetAtAnyTime : ({ inFlight with inputs := [.reset, .ret] } : State).inputs = .reset :: [.ret] := by
  decide

theorem test_meets_StepKeepsTheInvariant :
    ∃ t, (idle [1, 2]).Inv ∧ step (idle [1, 2]) = .next t := ⟨_, test_idle_inv, rfl⟩

/-- One word for each operation code that a rule's first clause is about. -/
theorem test_meets_operation_codes :
    hostOp 0x1FFFF = 0b0001 ∧ hostOp 0x20000 = 0b0010 ∧ hostOp 0x3FFFF = 0b0011 ∧ hostOp 0x4ABCD = 0b0100 ∧
    hostOp 0x50000 = 0b0101 ∧ hostOp 0x8FF00 = 0b1000 ∧ hostOp 0x9A501 = 0b1001 ∧ hostOp 0xAFFFF = 0b1010 ∧
    hostOp 0xB0000 = 0b1011 ∧ hostOp 0xC0700 = 0b1100 ∧ hostOp 0xD0000 = 0b1101 ∧ hostOp 0xE0000 = 0b1110 ∧
    hostOp 0x00000 = 0b0000 ∧ hostOp 0x6FFFF = 0b0110 ∧ hostOp 0x7ABCD = 0b0111 ∧ hostOp 0xFFFFF = 0b1111 := by
  decide

/-- The three clauses: the last address, the first address beyond, a halted block. -/
theorem test_meets_WrregRule :
    ((idle []).busy = false ∧ (idle []).halted = false ∧ 0x3F ≤ 0x3F) ∧
    ((idle []).busy = false ∧ (idle []).halted = false ∧ 0x3F < 0x40) ∧
    (stopped.busy = false ∧ stopped.halted = true) := by decide

/-- Counts 1 and MAX_COUNT, count 0, count MAX_COUNT + 1, the first address beyond, a halted block. -/
theorem test_meets_RdregRule :
    ((idle []).busy = false ∧ (idle []).halted = false) ∧
    (1 ≤ 1 ∧ 1 ≤ 255 ∧ 1 ≤ (idle []).cfg.maxCount ∧ 0x3F ≤ 0x3F) ∧
    (1 ≤ 255 ∧ 255 ≤ 255 ∧ 255 ≤ (idle []).cfg.maxCount ∧ 0 ≤ 0x3F) ∧
    (0 < 1 ∨ (idle []).cfg.maxCount < 0 ∨ 0x3F < 0x3F) ∧
    (256 < 1 ∨ (idle []).cfg.maxCount < 256 ∨ 0x3F < 0x3F) ∧
    (1 < 1 ∨ (idle []).cfg.maxCount < 1 ∨ 0x3F < 0x40) ∧
    (stopped.busy = false ∧ stopped.halted = true) := by decide

theorem test_meets_IdcheckRule :
    ((idle [0, 0xE5]).busy = false ∧ (idle [0, 0xE5]).halted = false ∧
      (idle [0, 0xE5]).answer 1 = (idle [0, 0xE5]).cfg.idValue) ∧
    ((idle [0, 0xE4]).busy = false ∧ (idle [0, 0xE4]).halted = false ∧
      (idle [0, 0xE4]).answer 1 ≠ (idle [0, 0xE4]).cfg.idValue) ∧
    (stopped.busy = false ∧ stopped.halted = true) := by decide

/-- A block that confirms the activation (R163). -/
def confirming : State := { idle [] with cfg := { Params.illustrative with actConfirm := true } }

theorem test_meets_ActivateRule :
    ((idle []).busy = false ∧ (idle []).halted = false ∧ (idle []).cfg.actConfirm = false) ∧
    (confirming.busy = false ∧ confirming.halted = false ∧ confirming.cfg.actConfirm = true) ∧
    (stopped.busy = false ∧ stopped.halted = true) := by decide

theorem test_meets_SampleRule :
    ((idle []).busy = false ∧ (idle []).halted = false) ∧ (stopped.busy = false ∧ stopped.halted = true) := by decide

/-- Counts 2 and 1 in the transaction registers. -/
theorem test_meets_HeaderRowsRun :
    ((idle []).busy = false ∧ (idle []).halted = false) ∧
    1 < ({ idle [] with tCnt := 2 } : State).tCnt.toNat ∧
    ({ idle [] with tCnt := 1 } : State).tCnt.toNat ≤ 1 := by decide

theorem test_meets_SetupRule :
    ((idle []).busy = false ∧ (idle []).halted = false ∧ (idle []).pstate = .uninitialized) ∧
    ((ready true).busy = false ∧ (ready true).halted = false ∧ (ready true).pstate ≠ .uninitialized) ∧
    (stopped.busy = false ∧ stopped.halted = true) := by decide

/-- For WRBYTE and for SHOWCUR and HIDECUR. -/
theorem test_meets_WrbyteRule_CursorVisibilityRule :
    ((ready false).busy = false ∧ (ready false).halted = false ∧ (ready false).pstate = .ready) ∧
    ((idle []).busy = false ∧ (idle []).halted = false ∧ (idle []).pstate ≠ .ready) ∧
    (stopped.busy = false ∧ stopped.halted = true) := by decide

/-- The last position of the display, the first column and the first row beyond it. -/
theorem test_meets_MovecurRule :
    ((ready true).busy = false ∧ (ready true).cfg.ok = true ∧ (ready true).halted = false ∧
      (ready true).pstate = .ready) ∧
    (1 < (ready true).cfg.rows ∧ 3 < (ready true).cfg.cols) ∧
    ((ready true).cfg.rows ≤ 1 ∨ (ready true).cfg.cols ≤ 4) ∧
    ((ready true).cfg.rows ≤ 2 ∨ (ready true).cfg.cols ≤ 3) ∧
    ((idle []).busy = false ∧ (idle []).cfg.ok = true ∧ (idle []).halted = false ∧ (idle []).pstate ≠ .ready) ∧
    (stopped.busy = false ∧ stopped.cfg.ok = true ∧ stopped.halted = true) := by decide

/-- All four bytes held; the last one missing; a display not set up; a halted block. -/
theorem test_meets_WrstrRule :
    ((ready true).busy = false ∧ 1 ≤ (ready true).cfg.cols ∧ (ready true).halted = false ∧
      (ready true).pstate = .ready ∧ ([0x4F, 0x4B, 0x20, 0x20] : List Byte).length = (ready true).cfg.cols ∧
      (∀ k, k < (ready true).cfg.cols → (ready true).pbAt k = ([0x4F, 0x4B, 0x20, 0x20] : List Byte)[k]?)) ∧
    (3 < (ready true).cfg.cols ∧ ({ ready true with pb := [(0, 1), (1, 1), (2, 1)] } : State).pbAt 3 = none) ∧
    ((idle []).busy = false ∧ 1 ≤ (idle []).cfg.cols ∧ (idle []).halted = false ∧ (idle []).pstate ≠ .ready) ∧
    (stopped.busy = false ∧ 1 ≤ stopped.cfg.cols ∧ stopped.halted = true) := by decide

/-- The last slot with all eight bytes held; the first slot beyond; the last byte missing; the other checks. -/
theorem test_meets_LdglyphRule :
    ((ready true).busy = false ∧ (ready true).halted = false ∧ (ready true).pstate = .ready ∧ 7 < 8 ∧
      ([0x4F, 0x4B, 0x20, 0x20, 0x0E, 0x04, 0x00, 0x00] : List Byte).length = 8 ∧
      (∀ k, k < 8 →
        (ready true).pbAt k = ([0x4F, 0x4B, 0x20, 0x20, 0x0E, 0x04, 0x00, 0x00] : List Byte)[k]?)) ∧
    8 ≤ 8 ∧
    (7 < 8 ∧ ({ ready true with pb := [(0, 1), (1, 1), (2, 1), (3, 1), (4, 1), (5, 1), (6, 1)] } : State).pbAt 7 =
      none) ∧
    ((idle []).busy = false ∧ (idle []).halted = false ∧ (idle []).pstate ≠ .ready) ∧
    (stopped.busy = false ∧ stopped.halted = true) := by decide

theorem test_meets_DisplayByteRowsRun :
    ((ready true).busy = false ∧ (ready true).halted = false ∧ (ready true).pstate ≠ .uninitialized) ∧
    ((idle []).busy = false ∧ (idle []).halted = false ∧ (idle []).pstate = .uninitialized) := by decide

theorem test_meets_InternalRowsWhenHalted :
    stopped.busy = false ∧ stopped.halted = true ∧ isDisplayByteRow (.dataByte 0) = true := by decide

theorem test_meets_ReservedCodesAreIllegal : (idle []).busy = false ∧ stopped.busy = false := by decide

theorem test_meets_ErrorsLeaveTheHardwareUntouched :
    ∃ t, isOperation (.rdreg 0x40 0) = true ∧ exec (.rdreg 0x40 0) (idle []) = .next t ∧ t.status ≠ .ok ∧
      t.status ≠ .identityMismatch := ⟨_, rfl, rfl, by decide, by decide⟩

theorem test_meets_CheckOrder :
    (stopped.busy = false ∧ isOperation (.movecur 9 99) = true ∧ stopped.halted = true) ∧
    ((idle []).busy = false ∧ needsReady (.ldglyph 8) = true ∧ (idle []).halted = false ∧
      (idle []).pstate ≠ .ready) := by decide

/-- A halted block with an operation issued, begun, and a byte written by the host, each a move of its clause. -/
theorem test_meets_HaltIsFinal :
    (stopped.halted = true ∧ stopped.busy = false ∧ stopped.walk = []) ∧
    (∃ t, step { stopped with inputs := [.issue 0x30000] } = .next t) ∧
    (∃ t, step { stopped with inputs := [.start 0x80100] } = .next t) ∧
    (∃ t, step { stopped with inputs := [.writePb 0 1] } = .next t) ∧ Move.issue 0x30000 ≠ .reset ∧
    (∀ k v, Move.start 0x80100 ≠ .writePb k v) :=
  ⟨by decide, ⟨_, rfl⟩, ⟨_, rfl⟩, ⟨_, rfl⟩, by decide, fun k v h => by cases h⟩

theorem test_meets_ModeIsSetOnce :
    (ready true).pstate = .ready ∧ (ready true).oe = true ∧
    (∀ rest, ({ ready true with inputs := [.issue 0x80000] } : State).inputs ≠ .reset :: rest) ∧
    goesOn (step { ready true with inputs := [.issue 0x80000] }) = true :=
  ⟨rfl, rfl, fun rest h => by simp at h, rfl⟩

/-- For the statements about every step. -/
theorem test_meets_ParametersAreNeverWritten_TraceOnlyGrows :
    goesOn (step { idle [1, 2] with inputs := [.issue 0x12D08] }) = true := by decide

/-- For the statements about the events of every operation. -/
theorem test_meets_FramesAreWellFormed_PulsesAreWellFormed :
    ((idle [1, 2]).Inv ∧ (idle [1, 2]).busy = false ∧ goesOn (exec (.wrreg 0x3F 0xFF) (idle [1, 2])) = true) ∧
    ((ready true).Inv ∧ (ready true).busy = false ∧ goesOn (exec (.ldglyph 7) (ready true)) = true) :=
  ⟨⟨test_idle_inv, by decide, by decide⟩, ⟨test_ready_inv, by decide, by decide⟩⟩

theorem test_meets_ReceiverGetsTheBytes :
    ((ready true).busy = false ∧ (ready true).halted = false ∧ (ready true).pstate = .ready ∧
      (⟨false, 0, none⟩ : Receiver).pending = none ∧ 1 ≤ (ready true).cfg.cols ∧ 7 < 8 ∧
      (ready true).cfg.ok = true ∧ 1 < (ready true).cfg.rows ∧ 3 < (ready true).cfg.cols) ∧
    (goesOn (exec (.wrbyte 0xA5 .data) (ready true)) = true ∧ goesOn (exec .wrstr (ready true)) = true ∧
      goesOn (exec (.ldglyph 7) (ready true)) = true ∧ goesOn (exec (.movecur 1 3) (ready true)) = true ∧
      goesOn (exec .showcur (ready true)) = true ∧ goesOn (exec .hidecur (ready true)) = true) ∧
    ((idle []).busy = false ∧ (idle []).halted = false ∧ (idle []).pstate = .uninitialized ∧
      goesOn (exec (.setup true) (idle [])) = true ∧ goesOn (exec (.setup false) (idle [])) = true) := by decide

theorem test_meets_UnitsShareNoState :
    (isDisplayRow .showcur = true ∧ goesOn (exec .showcur (ready true)) = true) ∧
    (isBusRow .sample = true ∧ goesOn (exec .sample (idle [0, 1, 2, 3, 4, 5, 6])) = true) := by decide

/-- A row of each kind that the clauses are about. -/
theorem test_meets_OnlyTheNamedWriters :
    (goesOn (exec .idcheck (idle [0, 1])) = true ∧ writesPb .idcheck = false ∧ Instr.idcheck ≠ .sample ∧
      Instr.idcheck ≠ .activate ∧ Instr.idcheck ≠ .setup true ∧ Instr.idcheck ≠ .setup false) ∧
    (goesOn (exec .sample (idle [0, 1, 2, 3, 4, 5, 6])) = true ∧ Instr.sample ≠ .idcheck) := by decide

theorem test_meets_SlowCommandsSettleLonger :
    Params.illustrative.ok = true ∧ (⟨0x02, .command⟩ : DisplayByte).target = .command ∧
    ¬ ((⟨0x01, .data⟩ : DisplayByte).target = .command ∧
      ((⟨0x01, .data⟩ : DisplayByte).value = 0x01 ∨ (⟨0x01, .data⟩ : DisplayByte).value = 0x02)) := by decide

/-- One operation for each clause. -/
theorem test_meets_PulseAndByteCounts :
    ((ready true).busy = false ∧ 1 ≤ (ready true).cfg.cols) ∧ ((idle []).busy = false ∧ 1 ≤ (idle []).cfg.cols) ∧
    endsIn (exec .wrstr (ready true)) .ok 0 = true ∧ endsIn (exec (.ldglyph 0) (ready false)) .ok 0 = true ∧
    endsIn (exec (.setup true) (idle [])) .ok 0 = true ∧ endsIn (exec (.setup false) (idle [])) .ok 0 = true ∧
    endsIn (exec (.movecur 0 0) (ready true)) .ok 0 = true ∧
    endsIn (exec (.wrbyte 0x01 .command) (ready true)) .ok 0 = true ∧
    endsIn (exec .hidecur (ready true)) .ok 0 = true := by decide

theorem test_meets_BusClockPeriods :
    (idle [0, 1, 2]).busy = false ∧ endsIn (exec (.wrreg 0 0) (idle [0, 1])) .ok 0 = true ∧
    endsIn (exec (.rdreg 0 1) (idle [0, 1])) .ok 1 = true ∧
    endsIn (exec .sample (idle [0, 1, 2, 3, 4, 5, 6])) .ok 6 = true := by decide

theorem test_meets_PinsAroundReset : (idle []).oe = false ∧ 0 ≠ (idle []).cfg.csLine := by decide

/-- The last byte of PB and the first index beyond it. -/
theorem test_meets_HostWritesPb :
    (idle []).busy = false ∧ ({ idle [] with inputs := [.writePb 254 1] } : State).inputs = .writePb 254 1 :: [] ∧
    254 < (idle []).cfg.pbSize ∧ (idle []).cfg.pbSize ≤ 255 := by decide

end Sys2Proof.Tests
end

section
/-!
SUPPORT. The facts about accepted rows that the proofs below share: which unit a phase belongs to, everything that beginning
a row can make of a state, and that running a row is beginning it and leaving its phases.
-/

namespace Sys2Proof.Machine

/-- The phases of the Register Bus Client, with the completions of its operations (10_state R44). -/
def Micro.ofBus : Micro → Bool
  | .sel => true
  | .hdr => true
  | .wdata => true
  | .rdata _ _ => true
  | .desel _ => true
  | .finish (.ok _) => true
  | .finish .identity => true
  | .finish .sample => true
  | _ => false

/-- The phases of the Parallel Display Driver, with the completions of its operations (10_state R52). -/
def Micro.ofDisplay : Micro → Bool
  | .initLines => true
  | .rs _ => true
  | .d1 _ => true
  | .e1h => true
  | .w1 => true
  | .e1l => true
  | .d2 _ => true
  | .e2h => true
  | .w2 => true
  | .e2l => true
  | .settle _ _ => true
  | .finish (.ok _) => true
  | .finish .setup => true
  | .finish .showCursor => true
  | .finish .hideCursor => true
  | _ => false

/-- Everything that beginning a bus row can make of the state `s` (40_register_bus, 41_sensor_sequences). -/
inductive BusBegun (s : State) : State → Prop where
  /-- An error before the first event. -/
  | error (code : Status) : BusBegun s (s.raise code)
  /-- WRREG accepted. -/
  | write (addr : RegAddr) (byte : Byte) :
    BusBegun s (s.acceptBus (.write addr byte) (writeWalk none ++ [.finish (.ok 0)]))
  /-- RDREG or SAMPLE accepted. -/
  | readPb (addr : RegAddr) (count : Nat) (how : Finish) (hpos : 1 ≤ count)
    (hmax : count ≤ s.cfg.maxCount ∨ count = sampleLen) (hhow : (Micro.finish how).ofBus = true) :
    BusBegun s (s.acceptBus (.read addr (countOf count)) (readWalk .pb count none ++ [.finish how]))
  /-- IDCHECK accepted. -/
  | idcheck : BusBegun s (s.acceptBus (.read s.cfg.idReg 1) (readWalk .idval 1 none ++ [.finish .identity]))
  /-- ACTIVATE accepted. -/
  | activate : BusBegun s (s.acceptBus (.read s.cfg.pwrReg 1) (activateWalk s.cfg))
  /-- A write frame run by itself (log 8). -/
  | writeFrame (addr : RegAddr) :
    BusBegun s (runMicros (writeWalk none) { s.loadTx (.write addr s.tByte) with rseq := .sel })
  /-- A read frame run by itself (log 8). -/
  | readFrame (addr : RegAddr) (count : Byte) (hcount : count = 1 ∨ count = s.tCnt) :
    BusBegun s (runMicros (readWalk .pb count.toNat none) { s.loadTx (.read addr count) with rseq := .sel })

/-- The state of an accepted SETUP (42_display R188, R191). -/
def State.acceptSetup (s : State) (nibbleMode : Bool) : State :=
  { s with busy := true, pstate := .initializing, nibble := nibbleMode,
           walk := .initLines ::
             (sendsWalk nibbleMode (setupBytes nibbleMode s.cfg.byteSetupHome) ++ [.finish .setup]) }

/-- Everything that beginning a display row can make of the state `s` (42_display_transfer, 43_display_commands). -/
inductive DisplayBegun (s : State) : State → Prop where
  /-- An error before the first event. -/
  | error (code : Status) : DisplayBegun s (s.raise code)
  /-- SETUP accepted. -/
  | setup (nibbleMode : Bool) (hfirst : s.pstate = .uninitialized) : DisplayBegun s (s.acceptSetup nibbleMode)
  /-- Another display operation accepted. -/
  | sends (bytes : List DisplayByte) (how : Finish) (hready : s.pstate = .ready)
    (hhow : how = .ok 0 ∨ how = .showCursor ∨ how = .hideCursor) : DisplayBegun s (s.acceptDisplay bytes how)
  /-- A display byte sent by itself (log 8). -/
  | sendAlone (b : DisplayByte) (hset : s.pstate ≠ .uninitialized) : DisplayBegun s (s.afterSends [b])

/-! ### The bus rows -/

theorem precheck_bus_next {s s1 t : State} (hs1 : BusBegun s s1) (h : precheck s (.next s1) = .next t) :
    s.busy = false ∧ BusBegun s t := by
  obtain ⟨hb, ⟨-, rfl⟩ | ⟨-, h⟩⟩ := precheck_next h
  · exact ⟨hb, .error _⟩
  · cases h; exact ⟨hb, hs1⟩

theorem beginWrreg_next {address : Nat} {byte : Byte} {s t : State} (h : beginWrreg address byte s = .next t) :
    s.busy = false ∧ BusBegun s t := by
  refine precheck_bus_next ?_ h
  split
  · exact .error _
  · exact .write _ _

theorem beginRdreg_next {address count : Nat} {s t : State} (h : beginRdreg address count s = .next t) :
    s.busy = false ∧ BusBegun s t := by
  refine precheck_bus_next ?_ h
  split
  · exact .error _
  · next hc =>
    rw [countBad_iff] at hc
    split
    · exact .error _
    · exact .readPb _ _ _ (by omega) (.inl (by omega)) rfl

theorem beginSample_next {s t : State} (h : beginSample s = .next t) : s.busy = false ∧ BusBegun s t :=
  precheck_bus_next (.readPb _ sampleLen .sample (by decide) (.inr rfl) rfl) h

theorem runFrame_next {s t : State} {tx : Tx} {walk : List Micro} (h : runFrame s tx walk = .next t) :
    s.busy = false ∧ t = runMicros walk { s.loadTx tx with rseq := .sel } := by
  obtain ⟨hb, -, h⟩ := internalCheck_next h
  cases h; exact ⟨hb, rfl⟩

theorem execHdrWrite_next {addr : RegAddr} {s t : State} (h : execHdrWrite addr s = .next t) :
    s.busy = false ∧ BusBegun s t := by
  obtain ⟨hb, rfl⟩ := runFrame_next h
  exact ⟨hb, .writeFrame addr⟩

theorem execHdrRead1_next {addr : RegAddr} {s t : State} (h : execHdrRead1 addr s = .next t) :
    s.busy = false ∧ BusBegun s t := by
  obtain ⟨hb, rfl⟩ := runFrame_next h
  exact ⟨hb, .readFrame addr 1 (.inl rfl)⟩

theorem execHdrReadN_next {addr : RegAddr} {s t : State} (h : execHdrReadN addr s = .next t) :
    s.busy = false ∧ BusBegun s t := by
  obtain ⟨-, -, h⟩ := internalCheck_next h
  split at h
  · obtain ⟨hb, rfl⟩ := runFrame_next h
    exact ⟨hb, .readFrame addr s.tCnt (.inr rfl)⟩
  · cases h

/-- What beginning a bus row can do. -/
theorem beginOp_busRow {i : Instr} {s t : State} (hi : isBusRow i = true) (h : beginOp i s = .next t) :
    s.busy = false ∧ BusBegun s t := by
  cases i with
  | wrreg address byte => exact beginWrreg_next h
  | rdreg address count => exact beginRdreg_next h
  | idcheck => exact precheck_bus_next .idcheck h
  | activate => exact precheck_bus_next .activate h
  | sample => exact beginSample_next h
  | hdrWrite addr => exact execHdrWrite_next h
  | hdrRead1 addr => exact execHdrRead1_next h
  | hdrReadN addr => exact execHdrReadN_next h
  | hdrReserved addr => cases h
  | _ => cases hi

/-! ### The display rows -/

theorem beginSetup_next {nibbleMode : Bool} {s t : State} (h : beginSetup nibbleMode s = .next t) :
    s.busy = false ∧ DisplayBegun s t := by
  obtain ⟨hb, ⟨-, rfl⟩ | ⟨-, h⟩⟩ := precheck_next h
  · exact ⟨hb, .error _⟩
  · cases h
    refine ⟨hb, ?_⟩
    split
    · next hp => exact .setup nibbleMode hp
    · exact .error _

theorem whenReady_display_next {s t : State} {body : Result} (h : whenReady s body = .next t)
    (hbody : s.pstate = .ready → body = .next t → DisplayBegun s t) : s.busy = false ∧ DisplayBegun s t := by
  obtain ⟨hb, ⟨-, rfl⟩ | ⟨-, -, rfl⟩ | ⟨-, hr, h⟩⟩ := whenReady_next h
  · exact ⟨hb, .error _⟩
  · exact ⟨hb, .error _⟩
  · exact ⟨hb, hbody hr h⟩

theorem beginMovecur_next {row col : Nat} {s t : State} (h : beginMovecur row col s = .next t) :
    s.busy = false ∧ DisplayBegun s t := by
  refine whenReady_display_next h fun hr h => ?_
  cases h
  split
  · exact .error _
  · split
    · exact .error _
    · exact .sends _ _ hr (.inl rfl)

theorem beginWrstr_next {s t : State} (h : beginWrstr s = .next t) : s.busy = false ∧ DisplayBegun s t := by
  refine whenReady_display_next h fun hr h => ?_
  obtain ⟨-, h⟩ := withPayload_next h
  cases h; exact .sends _ _ hr (.inl rfl)

theorem beginLdglyph_next {slot : Nat} {s t : State} (h : beginLdglyph slot s = .next t) :
    s.busy = false ∧ DisplayBegun s t := by
  refine whenReady_display_next h fun hr h => ?_
  split at h
  · cases h; exact .error _
  · obtain ⟨-, h⟩ := withPayload_next h
    cases h; exact .sends _ _ hr (.inl rfl)

theorem runSend_next {s t : State} {b : DisplayByte} (h : runSend s b = .next t) :
    s.busy = false ∧ DisplayBegun s t := by
  obtain ⟨hb, -, h⟩ := internalCheck_next h
  split at h
  · cases h
  · next hset =>
    rw [runMicros_sendWalk s b hb] at h
    cases h; exact ⟨hb, .sendAlone b hset⟩

/-- What beginning a display row can do. -/
theorem beginOp_displayRow {i : Instr} {s t : State} (hi : isDisplayRow i = true) (h : beginOp i s = .next t) :
    s.busy = false ∧ DisplayBegun s t := by
  cases i with
  | setup nibbleMode => exact beginSetup_next h
  | wrbyte byte target =>
    exact whenReady_display_next h fun hr h => by cases h; exact .sends _ _ hr (.inl rfl)
  | movecur row col => exact beginMovecur_next h
  | wrstr => exact beginWrstr_next h
  | ldglyph slot => exact beginLdglyph_next h
  | showcur =>
    exact whenReady_display_next h fun hr h => by cases h; exact .sends _ _ hr (.inr (.inl rfl))
  | hidecur =>
    exact whenReady_display_next h fun hr h => by cases h; exact .sends _ _ hr (.inr (.inr rfl))
  | cmdClear => exact runSend_next h
  | cmdHome => exact runSend_next h
  | cmdEntry => exact runSend_next h
  | cmdDispOff => exact runSend_next h
  | cmdDispOn => exact runSend_next h
  | cmdInit4 => exact runSend_next h
  | cmdInit8 => exact runSend_next h
  | cmdSetGlyphAddr slot => exact runSend_next h
  | cmdSetCursor position => exact runSend_next h
  | dataByte value => exact runSend_next h
  | _ => cases hi

/-! ### Every row -/

/-- The reserved operation codes (30_encoding R103). -/
theorem beginOp_reserved_next {i : Instr} {s t : State} (hi : (isBusRow i || isDisplayRow i) = false)
    (h : beginOp i s = .next t) : s.busy = false ∧ t = s.raise .illegalOp := by
  cases i with
  | reserved0 => exact illegalOperation_next h
  | reserved6 => exact illegalOperation_next h
  | reserved7 => exact illegalOperation_next h
  | reservedF => exact illegalOperation_next h
  | _ => cases hi

/-- What beginning any row can do: a row has a step in an idle block only (60_exceptions R245 step 1). -/
theorem beginOp_next {i : Instr} {s t : State} (h : beginOp i s = .next t) :
    s.busy = false ∧ (BusBegun s t ∨ DisplayBegun s t) := by
  cases hbus : isBusRow i with
  | true => obtain ⟨hb, ht⟩ := beginOp_busRow hbus h; exact ⟨hb, .inl ht⟩
  | false =>
    cases hdisplay : isDisplayRow i with
    | true => obtain ⟨hb, ht⟩ := beginOp_displayRow hdisplay h; exact ⟨hb, .inr ht⟩
    | false =>
      obtain ⟨hb, rfl⟩ := beginOp_reserved_next (by rw [hbus, hdisplay]; rfl) h
      exact ⟨hb, .inl (.error _)⟩

/-! ### Running a row is beginning it and leaving its phases -/

/-- What an operation writes when it ends (10_state R44, R52; the completion as a phase is log 9). -/
theorem finish_eq (how : Finish) (s : State) :
    s.finish how =
      { s with
        busy := false
        status := (s.finish how).status
        nread := (s.finish how).nread
        halted := (s.finish how).halted
        x := (s.finish how).x
        y := (s.finish how).y
        z := (s.finish how).z
        hasSample := (s.finish how).hasSample
        cursor := (s.finish how).cursor
        pstate := if how = .setup then .ready else s.pstate } := by
  cases how with
  | identity => simp only [State.finish, State.checkIdentity]; split <;> rfl
  | sample => simp only [State.finish, State.decodeSample]; split <;> rfl
  | _ => rfl

/-- No phase makes an idle block busy. -/
theorem leave_busy (m : Micro) {s : State} (h : s.busy = false) : (leave m s).busy = false := by
  cases m with
  | desel next => cases next <;> simp [leave, h]
  | finish how => rw [leave, finish_eq]
  | _ => simp [leave, h]

theorem runMicros_busy (w : List Micro) {s : State} (h : s.busy = false) : (runMicros w s).busy = false := by
  induction w generalizing s with
  | nil => exact h
  | cons m w ih => exact ih (leave_busy m h)

/-- A result that is not in flight is complete. -/
theorem complete_of_idle {r : Result} (h : ∀ t, r = .next t → t.busy = false) : complete r = r := by
  cases r with
  | next t => rw [complete, drain_of_not_busy (h t rfl)]
  | fault f => rfl
  | refused f => rfl

theorem complete_illegalOperation (s : State) : complete (illegalOperation s) = illegalOperation s :=
  complete_of_idle fun t h => by obtain ⟨-, rfl⟩ := illegalOperation_next h; rfl

theorem complete_runFrame (s : State) (tx : Tx) (w : List Micro) :
    complete (runFrame s tx w) = runFrame s tx w :=
  complete_of_idle fun t h => by
    obtain ⟨hb, rfl⟩ := runFrame_next h
    exact runMicros_busy w (by simpa using hb)

theorem complete_runSend (s : State) (b : DisplayByte) : complete (runSend s b) = runSend s b :=
  complete_of_idle fun t h => by
    obtain ⟨hb, -, h⟩ := internalCheck_next h
    split at h
    · cases h
    · cases h; exact runMicros_busy _ hb

theorem complete_execHdrReadN (addr : RegAddr) (s : State) :
    complete (execHdrReadN addr s) = execHdrReadN addr s :=
  complete_of_idle fun t h => by
    obtain ⟨-, -, h⟩ := internalCheck_next h
    split at h
    · obtain ⟨hb, rfl⟩ := runFrame_next h
      exact runMicros_busy _ (by simpa using hb)
    · cases h

/-- Running a row is beginning it and, where that put an operation in flight, leaving its phases (20_memory R89). -/
theorem exec_eq_complete_beginOp (i : Instr) (s : State) : exec i s = complete (beginOp i s) := by
  cases i with
  | reserved0 => exact (complete_illegalOperation s).symm
  | reserved6 => exact (complete_illegalOperation s).symm
  | reserved7 => exact (complete_illegalOperation s).symm
  | reservedF => exact (complete_illegalOperation s).symm
  | hdrWrite addr => exact (complete_runFrame s _ _).symm
  | hdrRead1 addr => exact (complete_runFrame s _ _).symm
  | hdrReadN addr => exact (complete_execHdrReadN addr s).symm
  | cmdClear => exact (complete_runSend s _).symm
  | cmdHome => exact (complete_runSend s _).symm
  | cmdEntry => exact (complete_runSend s _).symm
  | cmdDispOff => exact (complete_runSend s _).symm
  | cmdDispOn => exact (complete_runSend s _).symm
  | cmdInit4 => exact (complete_runSend s _).symm
  | cmdInit8 => exact (complete_runSend s _).symm
  | cmdSetGlyphAddr slot => exact (complete_runSend s _).symm
  | cmdSetCursor position => exact (complete_runSend s _).symm
  | dataByte value => exact (complete_runSend s _).symm
  | _ => rfl

theorem exec_next {i : Instr} {s t : State} (h : exec i s = .next t) :
    ∃ s1, beginOp i s = .next s1 ∧ t = drain s1 := by
  rw [exec_eq_complete_beginOp] at h
  exact complete_next h

end Sys2Proof.Machine
end

section
/-!
SUPPORT. The invariant of the block: each phase keeps it, every accepted row meets it, a row run whole meets it, and so every
step keeps it.
-/

namespace Sys2Proof.Machine

/-! ### Legal walks -/

theorem atPhase_withWalk (m : Micro) (s : State) (w : List Micro) :
    atPhase m { s with walk := w } = atPhase m s := by
  cases m with
  | finish how => cases how <;> rfl
  | _ => rfl

theorem atPhase_withInputs (m : Micro) (s : State) (i : List Move) :
    atPhase m { s with inputs := i } = atPhase m s := by
  cases m with
  | finish how => cases how <;> rfl
  | _ => rfl

/-- Whether a walk is legal depends neither on the walk the state holds nor on the moves to come. -/
theorem walkLegal_withWalk (v w : List Micro) (s : State) :
    walkLegal v { s with walk := w } = walkLegal v s := by
  induction v generalizing s with
  | nil => rfl
  | cons m v ih => simp only [walkLegal, atPhase_withWalk, leave_walk, ih]

theorem walkLegal_withInputs (v : List Micro) (i : List Move) (s : State) :
    walkLegal v { s with inputs := i } = walkLegal v s := by
  induction v generalizing s with
  | nil => rfl
  | cons m v ih => simp only [walkLegal, atPhase_withInputs, leave_inputs, ih]

/-- A legal walk is empty exactly in an idle block. -/
theorem idle_of_walkLegal {w : List Micro} {s : State} (h : walkLegal w s = true) (hb : s.busy = false) :
    w = [] ∧ s.rseq = .idle ∧ s.pseq = .idle ∧ s.pstate ≠ .initializing := by
  cases w with
  | nil => simpa [walkLegal, hb] using h
  | cons m w => simp [walkLegal, hb] at h

theorem walkLegal_finish {s : State} {how : Finish} (hb : s.busy = true) (hr : s.rseq = .idle)
    (hp : s.pseq = .idle) (hhow : how ≠ .setup) (hs : s.pstate ≠ .initializing) :
    walkLegal [.finish how] s = true := by
  have hat : atPhase (.finish how) s = true := by cases how <;> simp_all [atPhase]
  have hleave : walkLegal [] (leave (.finish how) s) = true := by
    rw [leave, finish_eq]; simp [walkLegal, hr, hp, hhow, hs]
  rw [walkLegal, hb, hat, hleave]; rfl

theorem walkLegal_finishSetup {s : State} (hb : s.busy = true) (hr : s.rseq = .idle)
    (hp : s.pseq = .idle) (hs : s.pstate = .initializing) (ho : s.oe = true) :
    walkLegal [.finish .setup] s = true := by
  simp [walkLegal, atPhase, leave, State.finish, State.done, hb, hr, hp, hs, ho]

/-- SEND walks its phases in order; what follows it starts where it ends (10_state R52, 42_display R183). -/
theorem walkLegal_sendWalk {s : State} {b : DisplayByte} {more : Bool} {w : List Micro} (hb : s.busy = true)
    (hr : s.rseq = .idle) (hp : s.pseq = .rs) (ho : s.oe = true)
    (hw : walkLegal w (leaveAll (sendWalk s.nibble b more) s) = true) :
    walkLegal (sendWalk s.nibble b more ++ w) s = true := by
  rw [← hw]
  cases hn : s.nibble <;>
    simp [sendWalk, walkLegal, atPhase, leave, afterE1L, leaveAll_cons, hb, hr, hp, ho, hn]

/-- The walk of a sequence of display bytes, from the acceptance on. -/
theorem walkLegal_sendsWalk {s : State} {nibble : Bool} {bytes : List DisplayByte} {w : List Micro}
    (hn : s.nibble = nibble) (hb : s.busy = true) (hr : s.rseq = .idle)
    (hp : s.pseq = nextBytePhase (!bytes.isEmpty)) (ho : s.oe = true)
    (hw : walkLegal w (leaveAll (sendsWalk nibble bytes) s) = true) :
    walkLegal (sendsWalk nibble bytes ++ w) s = true := by
  induction bytes generalizing s with
  | nil => exact hw
  | cons b bytes ih =>
    subst hn
    rw [sendsWalk, leaveAll_append, leaveAll_sendWalk] at hw
    rw [sendsWalk, List.append_assoc]
    refine walkLegal_sendWalk hb hr (by simpa [nextBytePhase] using hp) ho ?_
    rw [leaveAll_sendWalk]
    exact ih rfl hb hr rfl ho hw

/-- A sequence of display bytes leaves the PDD sequencer in P_IDLE (10_state R52). -/
theorem pseq_leaveAll_sendsWalk {s : State} {bytes : List DisplayByte}
    (hp : s.pseq = nextBytePhase (!bytes.isEmpty)) : (leaveAll (sendsWalk s.nibble bytes) s).pseq = .idle := by
  cases bytes with
  | nil => simpa [sendsWalk, nextBytePhase] using hp
  | cons b bytes => rw [leaveAll_sendsWalk _ _ (by simp)]

/-- Sending display bytes leaves alone what else a legal walk looks at. -/
theorem control_leaveAll_sendsWalk (s : State) (bytes : List DisplayByte) :
    (leaveAll (sendsWalk s.nibble bytes) s).busy = s.busy ∧
    (leaveAll (sendsWalk s.nibble bytes) s).rseq = s.rseq ∧
    (leaveAll (sendsWalk s.nibble bytes) s).pstate = s.pstate ∧
    (leaveAll (sendsWalk s.nibble bytes) s).oe = s.oe := by
  cases bytes with
  | nil => exact ⟨rfl, rfl, rfl, rfl⟩
  | cons b bytes => rw [leaveAll_sendsWalk _ _ (by simp)]; exact ⟨rfl, rfl, rfl, rfl⟩

/-- Display bytes followed by the completion of an operation other than SETUP. -/
theorem walkLegal_sends_finish {s : State} {nibble : Bool} {bytes : List DisplayByte} {how : Finish}
    (hn : s.nibble = nibble) (hb : s.busy = true) (hr : s.rseq = .idle)
    (hp : s.pseq = nextBytePhase (!bytes.isEmpty)) (ho : s.oe = true) (hhow : how ≠ .setup)
    (hs : s.pstate ≠ .initializing) : walkLegal (sendsWalk nibble bytes ++ [.finish how]) s = true := by
  subst hn
  obtain ⟨hb', hr', hs', -⟩ := control_leaveAll_sendsWalk s bytes
  exact walkLegal_sendsWalk rfl hb hr hp ho
    (walkLegal_finish (hb'.trans hb) (hr'.trans hr) (pseq_leaveAll_sendsWalk hp) hhow (hs'.trans_ne hs))

/-- Display bytes followed by the completion of SETUP. -/
theorem walkLegal_sends_finishSetup {s : State} {nibble : Bool} {bytes : List DisplayByte}
    (hn : s.nibble = nibble) (hb : s.busy = true) (hr : s.rseq = .idle)
    (hp : s.pseq = nextBytePhase (!bytes.isEmpty)) (ho : s.oe = true) (hs : s.pstate = .initializing) :
    walkLegal (sendsWalk nibble bytes ++ [.finish .setup]) s = true := by
  subst hn
  obtain ⟨hb', hr', hs', ho'⟩ := control_leaveAll_sendsWalk s bytes
  exact walkLegal_sendsWalk rfl hb hr hp ho
    (walkLegal_finishSetup (hb'.trans hb) (hr'.trans hr) (pseq_leaveAll_sendsWalk hp) (hs'.trans hs) (ho'.trans ho))

/-- The data phases of a read are left in ascending order (10_state R44). -/
theorem walkLegal_readPhases_pb {s : State} {first n : Nat} {w : List Micro} (hb : s.busy = true)
    (hr : s.rseq = .data first) (hp : s.pseq = .idle) (hd : s.tDir = true)
    (hn : s.tCnt.toNat = first + n) (hpos : 0 < n)
    (hw : walkLegal w (leaveAll (readPhases .pb first n) s) = true) :
    walkLegal (readPhases .pb first n ++ w) s = true := by
  induction n generalizing first s with
  | zero => omega
  | succ n ih =>
    have hat : atPhase (.rdata .pb first) s = true := decide_eq_true ⟨hr, hp, hd, by omega⟩
    rw [readPhases, List.cons_append, walkLegal, hb, hat]
    cases n with
    | zero => exact hw
    | succ n =>
      have hnext : nextReadPhase s.tCnt first = .data (first + 1) := if_pos (by omega)
      have hcnt : (leave (.rdata .pb first) s).tCnt.toNat = first + 1 + (n + 1) :=
        hn.trans (by omega)
      exact ih (s := leave (.rdata .pb first) s) hb hnext hp hd hcnt (by omega) hw

/-- A read frame into PB walks its phases in order (10_state R44, 30_encoding R108). -/
theorem walkLegal_readWalk_pb {s : State} {n : Nat} {w : List Micro} (hb : s.busy = true)
    (hr : s.rseq = .sel) (hp : s.pseq = .idle) (hd : s.tDir = true) (hn : s.tCnt.toNat = n) (hpos : 0 < n)
    (hw : walkLegal w (leaveAll (readWalk .pb n none) s) = true) :
    walkLegal (readWalk .pb n none ++ w) s = true := by
  have hsel : walkLegal (readWalk .pb n none ++ w) s =
      walkLegal (readPhases .pb 0 n ++ .desel none :: w) (leave .hdr (leave .sel s)) := by
    simp [readWalk, walkLegal, atPhase, leave, hb, hr, hp]
  rw [readWalk, leaveAll_cons, leaveAll_cons, leaveAll_append] at hw
  rw [hsel]
  refine walkLegal_readPhases_pb hb rfl hp hd (hn.trans (Nat.zero_add n).symm) hpos ?_
  rw [leaveAll_readPhases_pb] at hw ⊢
  have hend : nextReadPhase s.tCnt (0 + n - 1) = .desel := if_neg (by omega)
  have hat : (if n = 0 then RPhase.data 0 else nextReadPhase s.tCnt (0 + n - 1)) = .desel := by
    rw [if_neg hpos.ne', hend]
  rw [walkLegal, Bool.and_eq_true, Bool.and_eq_true]
  exact ⟨⟨hb, Bool.and_eq_true_iff.mpr ⟨decide_eq_true ⟨hat, hp⟩, rfl⟩⟩, hw⟩

/-- A read frame of one byte into a register walks its phases in order (41_sensor R160, R163). -/
theorem walkLegal_readWalk_one {s : State} {dest : ReadDest} {next : Option Tx} {w : List Micro}
    (hb : s.busy = true) (hr : s.rseq = .sel) (hp : s.pseq = .idle) (hd : s.tDir = true) (hn : s.tCnt = 1)
    (hfit : txFits s.cfg next = true) (hw : walkLegal w (leaveAll (readWalk dest 1 next) s) = true) :
    walkLegal (readWalk dest 1 next ++ w) s = true := by
  rw [← hw]
  simp [readWalk, readPhases, walkLegal, atPhase, leave, nextReadPhase, leaveAll_cons, hb, hr, hp, hd, hn, hfit]

/-- A write frame walks its phases in order (10_state R44, 30_encoding R107). -/
theorem walkLegal_writeWalk {s : State} {next : Option Tx} {w : List Micro} (hb : s.busy = true)
    (hr : s.rseq = .sel) (hp : s.pseq = .idle) (hd : s.tDir = false) (hfit : txFits s.cfg next = true)
    (hw : walkLegal w (leaveAll (writeWalk next) s) = true) : walkLegal (writeWalk next ++ w) s = true := by
  rw [← hw]
  simp [writeWalk, walkLegal, atPhase, leave, leaveAll_cons, hb, hr, hp, hd, hfit]

/-! ### Each phase keeps the clauses of the invariant -/

section
variable {m : Micro} {s : State} (hat : atPhase m s = true)
include hat

theorem leave_chipSelect (h : s.cs = csOf s.rseq) : (leave m s).cs = csOf (leave m s).rseq := by
  cases m with
  | hdr => simp_all [leave, atPhase, csOf]
  | wdata => simp_all [leave, atPhase, csOf]
  | rdata dest k =>
    have hnext : csOf (nextReadPhase s.tCnt k) = true := by unfold nextReadPhase; split <;> rfl
    simp_all [leave, atPhase, csOf]
  | sel => rfl
  | desel next => cases next <;> rfl
  | finish how => rw [leave, finish_eq]; exact h
  | _ => exact h

theorem leave_enable (h : s.en = enOf s.pseq) : (leave m s).en = enOf (leave m s).pseq := by
  cases m with
  | rs target => simp_all [leave, atPhase, enOf]
  | d1 value => simp_all [leave, atPhase, enOf]
  | d2 value => simp_all [leave, atPhase, enOf]
  | w1 => simp_all [leave, atPhase, enOf]
  | w2 => simp_all [leave, atPhase, enOf]
  | e1l => cases hn : s.nibble <;> simp [leave, afterE1L, enOf, hn]
  | settle b more => cases more <;> simp_all [leave, atPhase, enOf, nextBytePhase]
  | desel next => cases next <;> simpa [leave] using h
  | rdata dest k => simpa [leave] using h
  | finish how => rw [leave, finish_eq]; exact h
  | initLines => rfl
  | e1h => rfl
  | e2h => rfl
  | e2l => rfl
  | _ => exact h

/-- The phases of one unit are left while the other unit is idle (R30). -/
theorem leave_oneUnit : (leave m s).rseq = .idle ∨ (leave m s).pseq = .idle := by
  cases m with
  | desel next => cases next <;> simp_all [leave, atPhase]
  | finish how => cases how <;> rw [leave, finish_eq] <;> simp_all [atPhase]
  | _ => simp_all [leave, atPhase]

theorem leave_readyDriven (h : s.pstate = .ready → s.oe = true) :
    (leave m s).pstate = .ready → (leave m s).oe = true := by
  cases m with
  | initLines => exact fun _ => rfl
  | desel next => cases next <;> simpa [leave] using h
  | rdata dest k => simpa [leave] using h
  | finish how => cases how <;> rw [leave, finish_eq] <;> simp_all [atPhase]
  | _ => exact h

theorem leave_drivenSetUp (h : s.oe = true → s.pstate ≠ .uninitialized) :
    (leave m s).oe = true → (leave m s).pstate ≠ .uninitialized := by
  cases m with
  | initLines => simp_all [leave, atPhase]
  | desel next => cases next <;> simpa [leave] using h
  | rdata dest k => simpa [leave] using h
  | finish how => cases how <;> rw [leave, finish_eq] <;> simp_all
  | _ => exact h

end

/-- In nibble mode a data line write leaves DB[3:0] alone (42_display R186, R187). -/
theorem low_muxLines_nibble (half : Half) (value db : Byte) :
    (muxLines true half value db).extractLsb' 0 4 = db.extractLsb' 0 4 := low_of_mux _ _

theorem leave_lowLines {m : Micro} {s : State} (h : s.oe = true → s.nibble = true → s.db.extractLsb' 0 4 = 0) :
    (leave m s).oe = true → (leave m s).nibble = true → (leave m s).db.extractLsb' 0 4 = 0 := by
  have hdata : ∀ half value, s.oe = true → s.nibble = true →
      (muxLines s.nibble half value s.db).extractLsb' 0 4 = 0 := by
    intro half value ho hn
    rw [hn, low_muxLines_nibble, h ho hn]
  cases m with
  | initLines => exact fun _ _ => rfl
  | d1 value => exact hdata .hi value
  | d2 value => exact hdata .lo value
  | desel next => cases next <;> simpa [leave] using h
  | rdata dest k => simpa [leave] using h
  | finish how => rw [leave, finish_eq]; exact h
  | _ => exact h

/-- A transaction that is loaded sets `t_mb` as R35 says. -/
theorem loadTx_multiByte (s : State) (tx : Tx) :
    (s.loadTx tx).tMb = ((s.loadTx tx).tDir && multiByteBit (s.loadTx tx).tCnt) := by
  cases tx <;> simp [State.loadTx]

/-- A transaction that fits MAX_COUNT is loaded with a count that fits it. -/
theorem loadTx_countFits {s : State} {tx : Tx} (h : txFits s.cfg (some tx) = true) :
    (s.loadTx tx).tCnt.toNat ≤ s.cfg.maxCount := by
  cases tx <;> simpa [State.loadTx, txFits] using h

theorem leave_multiByte {m : Micro} {s : State} (h : s.tMb = (s.tDir && multiByteBit s.tCnt)) :
    (leave m s).tMb = ((leave m s).tDir && multiByteBit (leave m s).tCnt) := by
  cases m with
  | desel next => cases next with
    | none => exact h
    | some tx => exact loadTx_multiByte (s.emit (.cs false)) tx
  | rdata dest k => simpa [leave] using h
  | finish how => rw [leave, finish_eq]; exact h
  | _ => exact h

theorem leave_countFits {m : Micro} {s : State} (hat : atPhase m s = true) (h : s.tCnt.toNat ≤ s.cfg.maxCount) :
    (leave m s).tCnt.toNat ≤ s.cfg.maxCount := by
  cases m with
  | desel next => cases next with
    | none => exact h
    | some tx => exact loadTx_countFits (s := s.emit (.cs false)) (Bool.and_eq_true_iff.mp hat).2
  | rdata dest k => simpa [leave] using h
  | finish how => rw [leave, finish_eq]; exact h
  | _ => exact h

/-- PB changes only where a read into it leaves a data phase (20_memory R75). -/
theorem leave_pb {m : Micro} {s : State} :
    (leave m s).pb = s.pb ∨ ∃ k, m = .rdata .pb k ∧ (leave m s).pb = memWrite k (s.answer 0) s.pb := by
  cases m with
  | desel next => cases next <;> exact .inl (by simp [leave])
  | rdata dest k =>
    cases dest with
    | pb => exact .inr ⟨k, rfl, rfl⟩
    | idval => exact .inl rfl
    | pwrval => exact .inl rfl
  | finish how => left; rw [leave, finish_eq]
  | _ => exact .inl rfl

/-- MAX_COUNT bytes fit in PB (00_scope R7, 10_state R38). -/
theorem maxCount_le_pbSize (c : Params) : c.maxCount ≤ c.pbSize :=
  (le_max_right _ _).trans (le_max_right _ _)

theorem leave_pbWf {m : Micro} {s : State} (h : memWf s.pb = true) : memWf (leave m s).pb = true := by
  rcases leave_pb (m := m) (s := s) with hpb | ⟨k, -, hpb⟩ <;> rw [hpb]
  · exact h
  · exact memWf_memWrite k _ h

theorem leave_pbBelow {m : Micro} {s : State} (hat : atPhase m s = true)
    (hcount : s.tCnt.toNat ≤ s.cfg.maxCount) (h : memBelow s.cfg.pbSize s.pb = true) :
    memBelow s.cfg.pbSize (leave m s).pb = true := by
  rcases leave_pb (m := m) (s := s) with hpb | ⟨k, rfl, hpb⟩ <;> rw [hpb]
  · exact h
  · have hk : k < s.tCnt.toNat := by simp_all [atPhase]
    exact memBelow_memWrite _ (hk.trans_le (hcount.trans (maxCount_le_pbSize _))) h

/-! ### Leaving phases keeps the invariant -/

/-- The invariant is not about the moves to come. -/
theorem inv_withInputs {s : State} (i : List Move) (h : s.Inv) : ({ s with inputs := i } : State).Inv :=
  { h with walks := (walkLegal_withInputs s.walk i s).trans h.walks }

/-- Leaving the next phase of the walk keeps the invariant. -/
theorem tick_keeps_inv {s : State} (h : s.Inv) : (tick s).Inv := by
  cases hw : s.walk with
  | nil => simpa [tick, hw] using h
  | cons m rest =>
    have hlegal := h.walks
    rw [hw, walkLegal, Bool.and_eq_true, Bool.and_eq_true] at hlegal
    obtain ⟨⟨-, hat⟩, hrest⟩ := hlegal
    rw [show tick s = { leave m s with walk := rest } by rw [tick, hw]; exact leave_walk m s rest]
    have hcfg := leave_cfg m s
    exact
      { params := hcfg ▸ h.params
        walks := (walkLegal_withWalk rest rest (leave m s)).trans hrest
        chipSelect := leave_chipSelect hat h.chipSelect
        enable := leave_enable hat h.enable
        oneUnit := leave_oneUnit hat
        readyDriven := leave_readyDriven hat h.readyDriven
        drivenSetUp := leave_drivenSetUp hat h.drivenSetUp
        lowLines := leave_lowLines h.lowLines
        multiByte := leave_multiByte h.multiByte
        countFits := by rw [hcfg]; exact leave_countFits hat h.countFits
        pbWf := leave_pbWf h.pbWf
        pbBelow := by rw [hcfg]; exact leave_pbBelow hat h.countFits h.pbBelow }

/-- The operation in flight, run to completion, keeps the invariant. -/
theorem runMicros_keeps_inv {w : List Micro} {s : State} (hw : s.walk = w) (h : s.Inv) : (runMicros w s).Inv := by
  induction w generalizing s with
  | nil => exact h
  | cons m w ih =>
    have htick : leave m { s with walk := w } = tick s := by rw [tick, hw]
    rw [runMicros, htick]
    exact ih (by rw [← htick, walk_leave]) (tick_keeps_inv h)

theorem drain_keeps_inv {s : State} (h : s.Inv) : (drain s).Inv := by
  unfold drain
  split
  · exact runMicros_keeps_inv rfl h
  · exact h

/-! ### What an accepted row meets -/

theorem maxCount_bounds {c : Params} (h : c.ok = true) : 6 ≤ c.maxCount ∧ c.maxCount ≤ 255 := by
  simp only [Params.ok, Bool.and_eq_true, decide_eq_true_eq] at h
  omega

/-- An accepted bus row with a legal walk meets the invariant (10_state R30, R44). -/
theorem acceptBus_inv {s : State} (h : s.Inv) (hb : s.busy = false) {tx : Tx} {w : List Micro}
    (hfit : txFits s.cfg (some tx) = true) (hw : walkLegal w (s.acceptBus tx w) = true) :
    (s.acceptBus tx w).Inv := by
  obtain ⟨-, hr, hp, -⟩ := idle_of_walkLegal h.walks hb
  exact
    { params := by simpa using h.params
      walks := by simpa using hw
      chipSelect := by simp [h.chipSelect, hr, csOf]
      enable := by simpa using h.enable
      oneUnit := .inr (by simpa using hp)
      readyDriven := by simpa using h.readyDriven
      drivenSetUp := by simpa using h.drivenSetUp
      lowLines := by simpa using h.lowLines
      multiByte := by simpa using loadTx_multiByte s tx
      countFits := by simpa using loadTx_countFits hfit
      pbWf := by simpa using h.pbWf
      pbBelow := by simpa using h.pbBelow }

/-- An accepted display operation meets the invariant (10_state R30, R52). -/
theorem acceptDisplay_inv {s : State} (h : s.Inv) (hb : s.busy = false) (hready : s.pstate = .ready)
    {how : Finish} (hhow : how ≠ .setup) (bytes : List DisplayByte) : (s.acceptDisplay bytes how).Inv := by
  obtain ⟨-, hr, hp, -⟩ := idle_of_walkLegal h.walks hb
  have ho := h.readyDriven hready
  exact
    { h with
      walks := walkLegal_sends_finish rfl rfl hr rfl ho hhow (hready.trans_ne (by decide))
      enable := by cases bytes <;> simp [h.enable, hp, enOf, nextBytePhase]
      oneUnit := .inl hr }

/-- An accepted SETUP meets the invariant (42_display R188; INIT_LINES as a phase is log 37). -/
theorem acceptSetup_inv {s : State} (h : s.Inv) (hb : s.busy = false) (hfirst : s.pstate = .uninitialized)
    (nibbleMode : Bool) : (s.acceptSetup nibbleMode).Inv := by
  obtain ⟨-, hr, hp, -⟩ := idle_of_walkLegal h.walks hb
  have hoff : s.oe = false := by
    cases ho : s.oe with
    | false => rfl
    | true => exact absurd hfirst (h.drivenSetUp ho)
  have hmore : (setupBytes nibbleMode s.cfg.byteSetupHome).isEmpty = false := by
    cases nibbleMode <;> cases s.cfg.byteSetupHome <;> rfl
  have hlegal : walkLegal (s.acceptSetup nibbleMode).walk (s.acceptSetup nibbleMode) = true := by
    have hinit : atPhase .initLines (s.acceptSetup nibbleMode) = true := by
      simp [atPhase, State.acceptSetup, hr, hp]
    simp only [State.acceptSetup, walkLegal, Bool.true_and, Bool.and_eq_true]
    exact ⟨hinit, walkLegal_sends_finishSetup rfl rfl hr (by rw [hmore]; rfl) rfl rfl⟩
  exact
    { h with
      walks := hlegal
      oneUnit := .inl hr
      readyDriven := fun hs => by cases hs
      drivenSetUp := fun _ hs => by cases hs
      lowLines := fun ho => absurd (hoff.symm.trans ho) (by decide) }

/-- The walk of ACTIVATE is legal from its acceptance on (41_sensor R163). -/
theorem walkLegal_activateWalk {s : State} (hb : s.busy = true) (hr : s.rseq = .sel) (hp : s.pseq = .idle)
    (hd : s.tDir = true) (hn : s.tCnt = 1) (hmax : 1 ≤ s.cfg.maxCount) (hs : s.pstate ≠ .initializing) :
    walkLegal (activateWalk s.cfg) s = true := by
  rw [activateWalk, List.append_assoc]
  refine walkLegal_readWalk_one hb hr hp hd hn (decide_eq_true hmax) ?_
  rw [leaveAll_readWalk_pwrval]
  cases s.cfg.actConfirm with
  | false =>
    refine walkLegal_writeWalk hb rfl hp rfl rfl ?_
    rw [leaveAll_writeWalk]
    exact walkLegal_finish hb rfl hp (by decide) hs
  | true =>
    rw [if_pos rfl, List.append_assoc]
    refine walkLegal_writeWalk hb rfl hp rfl (decide_eq_true hmax) ?_
    rw [leaveAll_writeWalk]
    refine walkLegal_readWalk_one hb rfl hp rfl rfl rfl ?_
    rw [leaveAll_readWalk_pwrval]
    exact walkLegal_finish hb rfl hp (by decide) hs

/-- Writes inside PB keep every index inside PB. -/
theorem memBelow_memWriteAll {size first : Nat} (bytes : List Byte) {m : List Host.Cell}
    (hlen : first + bytes.length ≤ size) (h : memBelow size m = true) :
    memBelow size (memWriteAll first bytes m) = true := by
  induction bytes generalizing first m with
  | nil => exact h
  | cons b bytes ih =>
    rw [List.length_cons] at hlen
    exact ih (by omega) (memBelow_memWrite b (by omega) h)

/-- A write frame run by itself keeps the invariant (30_encoding R107, log 8). -/
theorem writeFrame_inv {s : State} (h : s.Inv) (hb : s.busy = false) (addr : RegAddr) :
    (runMicros (writeWalk none) { s.loadTx (.write addr s.tByte) with rseq := .sel }).Inv := by
  obtain ⟨-, -, hp, hs⟩ := idle_of_walkLegal h.walks hb
  obtain ⟨hlow, -⟩ := maxCount_bounds h.params
  rw [runMicros_eq_leaveAll _ _ (by simp [writeWalk]), leaveAll_writeWalk]
  exact
    { h with
      walks := by simp [walkLegal, leave, State.loadTx, hb, hp, hs]
      chipSelect := rfl
      oneUnit := .inl rfl
      multiByte := rfl
      countFits := show 1 ≤ s.cfg.maxCount by omega }

/-- A read frame run by itself keeps the invariant (30_encoding R108, log 8). -/
theorem readFrame_inv {s : State} (h : s.Inv) (hb : s.busy = false) (addr : RegAddr) {count : Byte}
    (hfit : count.toNat ≤ s.cfg.maxCount) :
    (runMicros (readWalk .pb count.toNat none) { s.loadTx (.read addr count) with rseq := .sel }).Inv := by
  obtain ⟨-, -, hp, hs⟩ := idle_of_walkLegal h.walks hb
  rw [runMicros_eq_leaveAll _ _ (by simp [readWalk]), leaveAll_readWalk_pb]
  exact
    { h with
      walks := by simp [walkLegal, State.loadTx, hb, hp, hs]
      chipSelect := rfl
      oneUnit := .inl rfl
      multiByte := rfl
      countFits := hfit
      pbWf := memWf_memWriteAll 0 _ h.pbWf
      pbBelow := memBelow_memWriteAll _
        (by simpa using hfit.trans (maxCount_le_pbSize _)) h.pbBelow }

/-- In nibble mode SEND leaves DB[3:0] alone (10_state R51). -/
theorem low_linesAfterSend_nibble (db value : Byte) :
    (linesAfterSend true db value).extractLsb' 0 4 = db.extractLsb' 0 4 := low_of_mux _ _

/-- A display byte sent by itself keeps the invariant (42_display R183, log 8). -/
theorem sendAlone_inv {s : State} (h : s.Inv) (hb : s.busy = false) (b : DisplayByte) :
    (s.afterSends [b]).Inv := by
  obtain ⟨-, hr, -, hs⟩ := idle_of_walkLegal h.walks hb
  exact
    { h with
      walks := by simp [walkLegal, State.afterSends, hr, hs]
      enable := rfl
      oneUnit := .inl hr
      lowLines := fun ho hn => by
        have hnib : s.nibble = true := hn
        show (linesAfterSend s.nibble s.db b.value).extractLsb' 0 4 = 0
        rw [hnib, low_linesAfterSend_nibble, h.lowLines ho hnib] }

/-- An error before the first event keeps the invariant (60_exceptions R247). -/
theorem raise_inv {s : State} (h : s.Inv) (hb : s.busy = false) (code : Status) : (s.raise code).Inv := by
  obtain ⟨hw, hr, hp, hs⟩ := idle_of_walkLegal h.walks hb
  exact { h with walks := by simp [hw, walkLegal, hr, hp, hs] }

theorem busBegun_inv {s t : State} (h : s.Inv) (hb : s.busy = false) (ht : BusBegun s t) : t.Inv := by
  obtain ⟨-, -, hp, hs⟩ := idle_of_walkLegal h.walks hb
  obtain ⟨hlow, hhigh⟩ := maxCount_bounds h.params
  have hone : 1 ≤ s.cfg.maxCount := by omega
  cases ht with
  | error code => exact raise_inv h hb code
  | write addr byte =>
    refine acceptBus_inv h hb (decide_eq_true hone) (walkLegal_writeWalk rfl rfl hp rfl rfl ?_)
    rw [leaveAll_writeWalk]
    exact walkLegal_finish rfl rfl hp (by decide) hs
  | readPb addr count how hpos hmax hhow =>
    have hfit : count ≤ s.cfg.maxCount := by
      rcases hmax with hmax | rfl
      · exact hmax
      · exact hlow
    have hcount : (countOf count).toNat = count := by rw [countOf, BitVec.toNat_ofNat]; omega
    refine acceptBus_inv h hb (by simpa [txFits, hcount] using hfit)
      (walkLegal_readWalk_pb rfl rfl hp rfl hcount hpos ?_)
    rw [leaveAll_readWalk_pb]
    exact walkLegal_finish rfl rfl hp (by rintro rfl; cases hhow) hs
  | idcheck =>
    refine acceptBus_inv h hb (decide_eq_true hone) (walkLegal_readWalk_one rfl rfl hp rfl rfl rfl ?_)
    rw [leaveAll_readWalk_idval]
    exact walkLegal_finish rfl rfl hp (by decide) hs
  | activate =>
    exact acceptBus_inv h hb (decide_eq_true hone)
      (walkLegal_activateWalk (s := s.acceptBus _ _) rfl rfl hp rfl rfl hone hs)
  | writeFrame addr => exact writeFrame_inv h hb addr
  | readFrame addr count hcount =>
    refine readFrame_inv h hb addr ?_
    rcases hcount with rfl | rfl
    · exact hone
    · exact h.countFits

theorem displayBegun_inv {s t : State} (h : s.Inv) (hb : s.busy = false) (ht : DisplayBegun s t) : t.Inv := by
  cases ht with
  | error code => exact raise_inv h hb code
  | setup nibbleMode hfirst => exact acceptSetup_inv h hb hfirst nibbleMode
  | sends bytes how hready hhow =>
    exact acceptDisplay_inv h hb hready (by rcases hhow with rfl | rfl | rfl <;> decide) bytes
  | sendAlone b _ => exact sendAlone_inv h hb b

/-- Beginning a row keeps the invariant. -/
theorem beginOp_keeps_inv {i : Instr} {s t : State} (h : s.Inv) (hbegin : beginOp i s = .next t) : t.Inv := by
  obtain ⟨hb, ht | ht⟩ := beginOp_next hbegin
  · exact busBegun_inv h hb ht
  · exact displayBegun_inv h hb ht

/-- Running a row keeps the invariant. -/
theorem exec_keeps_inv {i : Instr} {s t : State} (h : s.Inv) (hexec : exec i s = .next t) : t.Inv := by
  obtain ⟨s1, hbegin, rfl⟩ := exec_next hexec
  exact drain_keeps_inv (beginOp_keeps_inv h hbegin)

/-! ### Every move -/

/-- Only a word that decodes has a step, that of its row. -/
theorem runWord_next {e : Encoded} {s t : State} (h : runWord e s = .next t) :
    ∃ i, decode e = .ok i ∧ exec i s = .next t := by
  unfold runWord at h
  split at h
  · next i hd => exact ⟨i, hd, h⟩
  · cases h

theorem primitiveReturns_next {s t : State} (h : primitiveReturns s = .next t) : s.walk ≠ [] ∧ t = tick s := by
  unfold primitiveReturns at h
  split at h
  · cases h
  · next hw => cases h; exact ⟨fun hn => hw (by rw [hn]; rfl), rfl⟩

theorem hostWritePb_next {k : Nat} {v : Byte} {s t : State} (h : hostWritePb k v s = .next t) :
    s.busy = false ∧ k < s.cfg.pbSize ∧ t = { s with pb := memWrite k v s.pb } := by
  unfold hostWritePb at h
  split at h
  · cases h
  · next hb =>
    split at h
    · next hk => cases h; exact ⟨by simpa using hb, hk, rfl⟩
    · cases h

/-- The host's write of a PB byte keeps the invariant (10_state R38, 70_reset R300). -/
theorem hostWritePb_keeps_inv {k : Nat} {v : Byte} {s t : State} (h : s.Inv)
    (hwrite : hostWritePb k v s = .next t) : t.Inv := by
  obtain ⟨hb, hk, rfl⟩ := hostWritePb_next hwrite
  obtain ⟨hw, hr, hp, hs⟩ := idle_of_walkLegal h.walks hb
  exact
    { h with
      walks := by simp [hw, walkLegal, hb, hr, hp, hs]
      pbWf := memWf_memWrite k v h.pbWf
      pbBelow := memBelow_memWrite v hk h.pbBelow }

/-- Reset meets the invariant with admissible parameters, wherever the block stood (70_reset R281, R283). -/
theorem afterReset_inv {s : State} (h : s.cfg.ok = true) : s.afterReset.Inv where
  params := h
  walks := rfl
  chipSelect := rfl
  enable := rfl
  oneUnit := .inl rfl
  readyDriven := nofun
  drivenSetUp := nofun
  lowLines := nofun
  multiByte := rfl
  countFits := Nat.zero_le _
  pbWf := rfl
  pbBelow := rfl

theorem takeMove_keeps_inv {m : Move} {s t : State} (h : s.Inv) (hmove : takeMove m s = .next t) : t.Inv := by
  cases m with
  | issue w => obtain ⟨i, -, hexec⟩ := runWord_next (e := .host w) hmove; exact exec_keeps_inv h hexec
  | start w => exact beginOp_keeps_inv h hmove
  | ret => obtain ⟨-, rfl⟩ := primitiveReturns_next hmove; exact tick_keeps_inv h
  | writePb k v => exact hostWritePb_keeps_inv h hmove
  | reset => cases hmove; exact afterReset_inv h.params
  | internal e => obtain ⟨i, -, hexec⟩ := runWord_next (e := e) hmove; exact exec_keeps_inv h hexec

/-- A step without a move changes nothing; with one, it is that move in the state without it. -/
theorem step_next {s t : State} (h : step s = .next t) :
    (s.inputs = [] ∧ t = s) ∨
      ∃ m rest, s.inputs = m :: rest ∧ takeMove m { s with inputs := rest } = .next t := by
  unfold step at h
  split at h
  · next hi => cases h; exact .inl ⟨hi, rfl⟩
  · next m rest hi => exact .inr ⟨m, rest, hi, h⟩

/-- Settles O13: by the move taken; a row keeps the invariant since its acceptance meets it and each phase keeps it. -/
theorem stepKeepsTheInvariant : Obligations.StepKeepsTheInvariant := by
  intro s t h hstep
  obtain ⟨-, rfl⟩ | ⟨m, rest, -, hmove⟩ := step_next hstep
  · exact h
  · exact takeMove_keeps_inv (inv_withInputs rest h) hmove

end Sys2Proof.Machine
end

section
/-!
SUPPORT. What a step runs for each kind of move, and what every step keeps: the parameters and the events already on the trace.
-/

namespace Sys2Proof.Machine

/-! ### The step runs the decoded instruction -/

theorem step_of_inputs {s : State} {m : Move} {rest : List Move} (h : s.inputs = m :: rest) :
    step s = takeMove m { s with inputs := rest } := by
  rw [step, h]

theorem runWord_of_decode {e : Encoded} {i : Instr} (h : decode e = .ok i) (s : State) : runWord e s = exec i s := by
  rw [runWord, h]

theorem startWord_of_decode {w : HostWord} {i : Instr} (h : decode (.host w) = .ok i) (s : State) :
    startWord w s = beginOp i s := by
  cases h; rfl

theorem primitiveReturns_of_walk {s : State} (h : s.walk ≠ []) : primitiveReturns s = .next (tick s) :=
  if_neg (by simpa using h)

theorem primitiveReturns_of_no_walk {s : State} (h : s.walk = []) : primitiveReturns s = .refused .noPrimitive :=
  if_pos (by simpa using h)

/-- Settles O5, by the move taken. -/
theorem stepRunsDecoded : Obligations.StepRunsDecoded := by
  refine ⟨?issue, ?internal, ?start, ?ret⟩
  case issue =>
    intro s w rest i hin hdec
    exact (step_of_inputs hin).trans (runWord_of_decode hdec _)
  case internal =>
    intro s e rest i hin hdec
    exact (step_of_inputs hin).trans (runWord_of_decode hdec _)
  case start =>
    intro s w rest i hin hdec
    exact (step_of_inputs hin).trans (startWord_of_decode hdec _)
  case ret =>
    intro s rest hin
    exact ⟨fun hw => (step_of_inputs hin).trans (primitiveReturns_of_walk hw),
      fun hw => (step_of_inputs hin).trans (primitiveReturns_of_no_walk hw)⟩

/-! ### What every step keeps -/

/-- `t` comes after `s`: the same parameters (10_state R53), and every event of `s` still on the trace, in order (00_scope R11). -/
def State.Extends (s t : State) : Prop := t.cfg = s.cfg ∧ s.trace <+: t.trace

theorem State.Extends.refl (s : State) : s.Extends s := ⟨rfl, List.prefix_rfl⟩

theorem State.Extends.trans {s t u : State} (h1 : s.Extends t) (h2 : t.Extends u) : s.Extends u :=
  ⟨h2.1.trans h1.1, h1.2.trans h2.2⟩

theorem leave_extends (m : Micro) (s : State) : s.Extends (leave m s) := by
  obtain ⟨new, hnew, -⟩ := leave_trace m s
  exact ⟨leave_cfg m s, new, hnew.symm⟩

theorem tick_extends (s : State) : s.Extends (tick s) := by
  unfold tick
  split
  · exact .refl s
  · next m rest _ => exact leave_extends m { s with walk := rest }

theorem runMicros_extends (w : List Micro) (s : State) : s.Extends (runMicros w s) := by
  induction w generalizing s with
  | nil => exact .refl s
  | cons m w ih => exact (leave_extends m { s with walk := w }).trans (ih _)

theorem drain_extends (s : State) : s.Extends (drain s) := by
  unfold drain
  split
  · exact runMicros_extends _ s
  · exact .refl s

theorem busBegun_extends {s t : State} (h : BusBegun s t) : s.Extends t := by
  cases h with
  | writeFrame addr => exact runMicros_extends _ { s.loadTx (.write addr s.tByte) with rseq := .sel }
  | readFrame addr count _ => exact runMicros_extends _ { s.loadTx (.read addr count) with rseq := .sel }
  | _ => exact .refl s

theorem displayBegun_extends {s t : State} (h : DisplayBegun s t) : s.Extends t := by
  cases h with
  | sendAlone b _ => exact ⟨rfl, List.prefix_append _ _⟩
  | _ => exact .refl s

theorem beginOp_extends {i : Instr} {s t : State} (h : beginOp i s = .next t) : s.Extends t := by
  obtain ⟨-, ht | ht⟩ := beginOp_next h
  · exact busBegun_extends ht
  · exact displayBegun_extends ht

theorem exec_extends {i : Instr} {s t : State} (h : exec i s = .next t) : s.Extends t := by
  obtain ⟨s1, hbegin, rfl⟩ := exec_next h
  exact (beginOp_extends hbegin).trans (drain_extends s1)

theorem takeMove_extends {m : Move} {s t : State} (h : takeMove m s = .next t) : s.Extends t := by
  cases m with
  | issue w => obtain ⟨i, -, hexec⟩ := runWord_next (e := .host w) h; exact exec_extends hexec
  | start w => exact beginOp_extends h
  | ret => obtain ⟨-, rfl⟩ := primitiveReturns_next h; exact tick_extends s
  | writePb k v => obtain ⟨-, -, rfl⟩ := hostWritePb_next h; exact .refl s
  | reset => cases h; exact .refl s
  | internal e => obtain ⟨i, -, hexec⟩ := runWord_next h; exact exec_extends hexec

theorem step_extends {s t : State} (h : step s = .next t) : s.Extends t := by
  obtain ⟨-, rfl⟩ | ⟨m, rest, -, hmove⟩ := step_next h
  · exact .refl t
  · exact takeMove_extends (s := { s with inputs := rest }) hmove

/-- Settles O35: no phase, no acceptance and no move writes `cfg`. -/
theorem parametersAreNeverWritten : Obligations.ParametersAreNeverWritten :=
  fun _ _ h => (step_extends h).1

/-- Settles O36: phases only append to the trace, and nothing else touches it. -/
theorem traceOnlyGrows : Obligations.TraceOnlyGrows := fun _ _ h => by
  obtain ⟨new, hnew⟩ := (step_extends h).2
  exact ⟨new, hnew.symm⟩

end Sys2Proof.Machine
end

section
/-!
SUPPORT. The serial clock periods of WRREG, RDREG and SAMPLE, counted from the events their frames put on the trace.
-/

namespace Sys2Proof.Machine

theorem traceClocks_append (a b : List Event) : traceClocks (a ++ b) = traceClocks a + traceClocks b := by
  simp [traceClocks]

/-- `n` exchanges take eight clock periods each (70_reset R301). -/
theorem traceClocks_exchanges (t : Byte) (r : Nat → Byte) (n : Nat) :
    traceClocks ((List.range n).map fun j => .xfer t (r j)) = 8 * n := by
  simp [traceClocks, Function.comp_def, clockPeriods, Nat.mul_comm]

/-- At the reference rate of 1 MHz a clock period takes a microsecond (00_scope R6). -/
theorem busMicrosAtRef_eq_traceClocks (trace : List Event) : busMicrosAtRef trace = traceClocks trace :=
  Nat.mul_div_cancel _ (by decide)

/-- An operation whose checks pass into `s1` and that ends in OK has run `s1` to its end. -/
theorem complete_precheck_ok {s s1 t : State} (h : complete (precheck s (.next s1)) = .next t)
    (hok : t.status = .ok) : t = drain s1 := by
  obtain ⟨u, hu, rfl⟩ := complete_next h
  obtain ⟨-, ⟨-, rfl⟩ | ⟨-, hbody⟩⟩ := precheck_next hu
  · rw [drain_raise] at hok; cases hok
  · cases hbody; rfl

/-- Completing an operation adds no event. -/
theorem finish_trace (how : Finish) (s : State) : (s.finish how).trace = s.trace := by rw [finish_eq]

/-- A write of one register: the header and the byte (30_encoding R107). -/
theorem traceClocks_drain_write (s : State) (addr : RegAddr) (byte : Byte) (how : Finish) :
    traceClocks (drain (s.acceptBus (.write addr byte) (writeWalk none ++ [.finish how]))).trace =
      traceClocks s.trace + 16 := by
  rw [drain_acceptBus, leaveAll_writeWalk]
  simp only [finish_trace, leave, emit_trace, loadTx_trace, traceClocks_append]
  rfl

/-- A read of `n` bytes into PB: the header and `n` bytes (30_encoding R108). -/
theorem traceClocks_drain_read (s : State) (addr : RegAddr) (count : Byte) (n : Nat) (how : Finish) :
    traceClocks (drain (s.acceptBus (.read addr count) (readWalk .pb n none ++ [.finish how]))).trace =
      traceClocks s.trace + (8 + 8 * n) := by
  rw [drain_acceptBus, leaveAll_readWalk_pb]
  simp only [finish_trace, loadTx_trace, traceClocks_append, traceClocks_exchanges]
  rfl

theorem execWrreg_traceClocks {address : Nat} {byte : Byte} {s t : State}
    (h : execWrreg address byte s = .next t) (hok : t.status = .ok) :
    traceClocks t.trace = traceClocks s.trace + 16 := by
  have ht := complete_precheck_ok h hok
  split at ht
  · rw [ht, drain_raise] at hok; cases hok
  · rw [ht, traceClocks_drain_write]

theorem execRdreg_traceClocks {address count : Nat} {s t : State}
    (h : execRdreg address count s = .next t) (hok : t.status = .ok) :
    traceClocks t.trace = traceClocks s.trace + (8 + 8 * count) := by
  have ht := complete_precheck_ok h hok
  split at ht
  · rw [ht, drain_raise] at hok; cases hok
  · split at ht
    · rw [ht, drain_raise] at hok; cases hok
    · rw [ht, traceClocks_drain_read]

theorem execSample_traceClocks {s t : State} (h : execSample s = .next t) (hok : t.status = .ok) :
    traceClocks t.trace = traceClocks s.trace + 56 := by
  rw [complete_precheck_ok h hok, traceClocks_drain_read]
  rfl

/-- The clocks of the new events are what the trace has more. -/
theorem traceClocks_new {s t : State} {new : List Event} {n : Nat} (hnew : t.trace = s.trace ++ new)
    (h : traceClocks t.trace = traceClocks s.trace + n) : traceClocks new = n ∧ busMicrosAtRef new = n := by
  rw [hnew, traceClocks_append] at h
  rw [busMicrosAtRef_eq_traceClocks]
  omega

/-- Settles O44: the events of an operation that ends in OK are its whole frames. -/
theorem busClockPeriods : Obligations.BusClockPeriods := by
  intro s t new _ hnew hok
  refine ⟨?wrreg, ?rdreg, ?sample⟩
  case wrreg => exact fun address byte h => traceClocks_new hnew (execWrreg_traceClocks h hok)
  case rdreg => exact fun address count h => traceClocks_new hnew (execRdreg_traceClocks h hok)
  case sample => exact fun h => traceClocks_new hnew (execSample_traceClocks h hok)

end Sys2Proof.Machine
end

section
/-!
SUPPORT. The registers of one unit put to arbitrary values, and that the other unit's rows commute with that: their checks,
their acceptance and every phase of their walks (00_scope R2).
-/

namespace Sys2Proof.Machine

/-- What only the Register Bus Client uses: its registers, the sensor's answers and the values read. -/
structure BusSide where
  busIn : List Byte
  xfers : Nat
  tDir : Bool
  tMb : Bool
  tAddr : RegAddr
  tCnt : Byte
  tByte : Byte
  idval : Byte
  pwrval : Byte
  x : BitVec 16
  y : BitVec 16
  z : BitVec 16
  cs : Bool
  hasSample : Bool
  hasId : Bool
  hasPwr : Bool
  rseq : RPhase

/-- The state with the bus side put to `r`. -/
def State.withBus (r : BusSide) (s : State) : State :=
  { s with busIn := r.busIn, xfers := r.xfers, tDir := r.tDir, tAddr := r.tAddr, tMb := r.tMb, tCnt := r.tCnt
           tByte := r.tByte, idval := r.idval, pwrval := r.pwrval, x := r.x, y := r.y, z := r.z, cs := r.cs
           hasSample := r.hasSample, hasId := r.hasId, hasPwr := r.hasPwr, rseq := r.rseq }

/-- What only the Parallel Display Driver uses: its registers and lines. -/
structure DisplaySide where
  pstate : PState
  nibble : Bool
  cursor : Bool
  oe : Bool
  rs : Bool
  en : Bool
  db : Byte
  pseq : PPhase

/-- The state with the display side put to `d`. -/
def State.withDisplay (d : DisplaySide) (s : State) : State :=
  { s with pstate := d.pstate, nibble := d.nibble, cursor := d.cursor, oe := d.oe, rs := d.rs, en := d.en
           db := d.db, pseq := d.pseq }

/-- The update `f` touches nothing that the phases of `unit`, or the checks before its rows, look at. -/
structure UnseenBy (unit : Micro → Bool) (f : State → State) : Prop where
  busy : ∀ s, (f s).busy = s.busy
  halted : ∀ s, (f s).halted = s.halted
  walk : ∀ s, (f s).walk = s.walk
  withWalk : ∀ s w, { f s with walk := w } = f { s with walk := w }
  raise : ∀ s code, (f s).raise code = f (s.raise code)
  leave : ∀ m s, unit m = true → leave m (f s) = f (leave m s)

/-- An update applied to the next state of a result. -/
def mapNext (f : State → State) : Result → Result
  | .next s => .next (f s)
  | .fault e => .fault e
  | .refused e => .refused e

section
variable {unit : Micro → Bool} {f : State → State} (hf : UnseenBy unit f)
include hf

theorem precheck_mapNext (s : State) (body : Result) :
    precheck (f s) (mapNext f body) = mapNext f (precheck s body) := by
  unfold precheck
  rw [hf.busy, hf.halted]
  split
  · rfl
  · split
    · rw [hf.raise]; rfl
    · rfl

theorem internalCheck_mapNext (s : State) (body : Result) :
    internalCheck (f s) (mapNext f body) = mapNext f (internalCheck s body) := by
  unfold internalCheck
  rw [hf.busy, hf.halted]
  split
  · rfl
  · split <;> rfl

theorem runMicros_unseen {w : List Micro} (hw : w.all unit = true) (s : State) :
    runMicros w (f s) = f (runMicros w s) := by
  induction w generalizing s with
  | nil => rfl
  | cons m w ih =>
    rw [List.all_cons, Bool.and_eq_true] at hw
    rw [runMicros, runMicros, hf.withWalk, hf.leave m _ hw.1, ih hw.2]

theorem drain_unseen {s : State} (hw : s.busy = true → s.walk.all unit = true) : drain (f s) = f (drain s) := by
  unfold drain
  rw [hf.busy, hf.walk]
  split
  · next hb => exact runMicros_unseen hf (hw hb) s
  · rfl

/-- A row that begins alike under the update, and walks phases of its unit only, runs alike under it. -/
theorem exec_unseen {i : Instr} {s t : State} (hbegin : beginOp i (f s) = mapNext f (beginOp i s))
    (hunit : ∀ s1, beginOp i s = .next s1 → s1.busy = true → s1.walk.all unit = true)
    (h : exec i s = .next t) : exec i (f s) = .next (f t) := by
  obtain ⟨s1, hs1, rfl⟩ := exec_next h
  rw [exec_eq_complete_beginOp, hbegin, hs1, mapNext, complete, drain_unseen hf (hunit s1 hs1)]

end

/-! ### The display rows do not see the bus side -/

theorem withBus_unseen (r : BusSide) : UnseenBy Micro.ofDisplay (State.withBus r) where
  busy _ := rfl
  halted _ := rfl
  walk _ := rfl
  withWalk _ _ := rfl
  raise _ _ := rfl
  leave m s hm := by
    cases m with
    | sel => cases hm
    | hdr => cases hm
    | wdata => cases hm
    | rdata dest k => cases hm
    | desel next => cases hm
    | finish how => cases how with
      | identity => cases hm
      | sample => cases hm
      | _ => rfl
    | _ => rfl

theorem sendWalk_ofDisplay (nibble : Bool) (b : DisplayByte) (more : Bool) :
    (sendWalk nibble b more).all Micro.ofDisplay = true := by cases nibble <;> rfl

theorem sendsWalk_ofDisplay (nibble : Bool) (bytes : List DisplayByte) :
    (sendsWalk nibble bytes).all Micro.ofDisplay = true := by
  induction bytes with
  | nil => rfl
  | cons b bytes ih => rw [sendsWalk, List.all_append, sendWalk_ofDisplay, ih]; rfl

theorem displayBegun_ofDisplay {s t : State} (h : DisplayBegun s t) (hb : t.busy = true) :
    t.walk.all Micro.ofDisplay = true := by
  cases h with
  | error code => cases hb
  | sendAlone b _ => cases hb
  | setup nibbleMode _ =>
    rw [State.acceptSetup, List.all_cons, List.all_append, sendsWalk_ofDisplay]; rfl
  | sends bytes how _ hhow =>
    rw [acceptDisplay_walk, List.all_append, sendsWalk_ofDisplay]
    rcases hhow with rfl | rfl | rfl <;> rfl

section
variable (r : BusSide) (s : State)

theorem whenReady_withBus (body : Result) :
    whenReady (s.withBus r) (mapNext (State.withBus r) body) = mapNext (State.withBus r) (whenReady s body) := by
  unfold whenReady
  rw [← precheck_mapNext (withBus_unseen r)]
  congr 1
  show (if s.pstate = .ready then _ else _) = _
  split <;> rfl

theorem withPayload_withBus (n : Nat) (body : List Byte → Result) :
    withPayload (s.withBus r) n (fun bytes => mapNext (State.withBus r) (body bytes)) =
      mapNext (State.withBus r) (withPayload s n body) := by
  unfold withPayload
  rw [show (s.withBus r).pb = s.pb from rfl]
  cases firstMissing s.pb 0 n <;> rfl

theorem whenReady_acceptDisplay_withBus (bytes : List DisplayByte) (how : Finish) :
    whenReady (s.withBus r) (.next ((s.withBus r).acceptDisplay bytes how)) =
      mapNext (State.withBus r) (whenReady s (.next (s.acceptDisplay bytes how))) :=
  whenReady_withBus r s (.next (s.acceptDisplay bytes how))

theorem beginSetup_withBus (nibbleMode : Bool) :
    beginSetup nibbleMode (s.withBus r) = mapNext (State.withBus r) (beginSetup nibbleMode s) := by
  unfold beginSetup
  rw [← precheck_mapNext (withBus_unseen r)]
  congr 2
  show (if s.pstate = .uninitialized then _ else _) = _
  split <;> rfl

theorem beginMovecur_withBus (row col : Nat) :
    beginMovecur row col (s.withBus r) = mapNext (State.withBus r) (beginMovecur row col s) := by
  unfold beginMovecur
  rw [← whenReady_withBus]
  congr 2
  show (if positionBad s.cfg.rows s.cfg.cols row col then _ else _) = _
  split
  · rfl
  · cases rowBase row <;> rfl

theorem beginWrstr_withBus : beginWrstr (s.withBus r) = mapNext (State.withBus r) (beginWrstr s) := by
  unfold beginWrstr
  rw [← whenReady_withBus, ← withPayload_withBus]
  rfl

theorem beginLdglyph_withBus (slot : Nat) :
    beginLdglyph slot (s.withBus r) = mapNext (State.withBus r) (beginLdglyph slot s) := by
  unfold beginLdglyph
  rw [← whenReady_withBus]
  congr 1
  split
  · rfl
  · rw [← withPayload_withBus]; rfl

theorem runSend_withBus (b : DisplayByte) :
    runSend (s.withBus r) b = mapNext (State.withBus r) (runSend s b) := by
  unfold runSend
  rw [← internalCheck_mapNext (withBus_unseen r)]
  congr 1
  show (if s.pstate = .uninitialized then _ else _) = _
  split
  · rfl
  · exact congrArg Host.Outcome.next
      (runMicros_unseen (withBus_unseen r) (sendWalk_ofDisplay s.nibble b false) { s with pseq := .rs })

/-- A display row begins alike whatever the bus side holds. -/
theorem beginOp_withBus {i : Instr} (hi : isDisplayRow i = true) :
    beginOp i (s.withBus r) = mapNext (State.withBus r) (beginOp i s) := by
  cases i with
  | setup nibbleMode => exact beginSetup_withBus r s nibbleMode
  | wrbyte byte target => exact whenReady_acceptDisplay_withBus r s _ _
  | movecur row col => exact beginMovecur_withBus r s row col
  | wrstr => exact beginWrstr_withBus r s
  | ldglyph slot => exact beginLdglyph_withBus r s slot
  | showcur => exact whenReady_acceptDisplay_withBus r s _ _
  | hidecur => exact whenReady_acceptDisplay_withBus r s _ _
  | cmdClear => exact runSend_withBus r s _
  | cmdHome => exact runSend_withBus r s _
  | cmdEntry => exact runSend_withBus r s _
  | cmdDispOff => exact runSend_withBus r s _
  | cmdDispOn => exact runSend_withBus r s _
  | cmdInit4 => exact runSend_withBus r s _
  | cmdInit8 => exact runSend_withBus r s _
  | cmdSetGlyphAddr slot => exact runSend_withBus r s _
  | cmdSetCursor position => exact runSend_withBus r s _
  | dataByte value => exact runSend_withBus r s _
  | _ => cases hi

end

/-- A display row runs alike whatever the bus side holds, and leaves it alone. -/
theorem exec_withBus {i : Instr} (hi : isDisplayRow i = true) {s t : State} (h : exec i s = .next t) (r : BusSide) :
    exec i (s.withBus r) = .next (t.withBus r) :=
  exec_unseen (withBus_unseen r) (beginOp_withBus r s hi)
    (fun _ hs1 hb => displayBegun_ofDisplay (beginOp_displayRow hi hs1).2 hb) h

/-! ### The bus rows do not see the display side -/

theorem checkIdentity_withDisplay (d : DisplaySide) (s : State) :
    (s.withDisplay d).checkIdentity = s.checkIdentity.withDisplay d := by
  unfold State.checkIdentity
  show (if identityBad s.cfg.idValue s.idval then _ else _) = _
  split <;> rfl

theorem decodeSample_withDisplay (d : DisplaySide) (s : State) :
    (s.withDisplay d).decodeSample = s.decodeSample.withDisplay d := by
  unfold State.decodeSample
  simp only [State.pbAt, State.withDisplay]
  split <;> rfl

theorem withDisplay_unseen (d : DisplaySide) : UnseenBy Micro.ofBus (State.withDisplay d) where
  busy _ := rfl
  halted _ := rfl
  walk _ := rfl
  withWalk _ _ := rfl
  raise _ _ := rfl
  leave m s hm := by
    cases m with
    | sel => rfl
    | hdr => rfl
    | wdata => rfl
    | rdata dest k => cases dest <;> rfl
    | desel next => cases next with
      | none => rfl
      | some tx => cases tx <;> rfl
    | finish how => cases how with
      | ok n => rfl
      | identity => exact checkIdentity_withDisplay d s
      | sample => simp only [leave, State.finish, decodeSample_withDisplay]; rfl
      | _ => cases hm
    | _ => cases hm

theorem writeWalk_ofBus (next : Option Tx) : (writeWalk next).all Micro.ofBus = true := rfl

theorem readPhases_ofBus (dest : ReadDest) (first n : Nat) : (readPhases dest first n).all Micro.ofBus = true := by
  induction n generalizing first with
  | zero => rfl
  | succ n ih => rw [readPhases, List.all_cons, ih]; rfl

theorem readWalk_ofBus (dest : ReadDest) (n : Nat) (next : Option Tx) :
    (readWalk dest n next).all Micro.ofBus = true := by
  rw [readWalk, List.all_cons, List.all_cons, List.all_append, readPhases_ofBus]; rfl

theorem activateWalk_ofBus (c : Params) : (activateWalk c).all Micro.ofBus = true := by
  rw [activateWalk, List.all_append, List.all_append, readWalk_ofBus]
  cases c.actConfirm <;> rfl

theorem busBegun_ofBus {s t : State} (h : BusBegun s t) (hidle : s.busy = false) (hb : t.busy = true) :
    t.walk.all Micro.ofBus = true := by
  cases h with
  | error code => cases hb
  | write addr byte => rfl
  | readPb addr count how _ _ hhow =>
    rw [acceptBus_walk, List.all_append, readWalk_ofBus, List.all_cons, hhow]; rfl
  | idcheck => rfl
  | activate => exact activateWalk_ofBus s.cfg
  | writeFrame addr =>
    have hend := runMicros_busy (writeWalk none) (s := { s.loadTx (.write addr s.tByte) with rseq := .sel }) hidle
    cases hend.symm.trans hb
  | readFrame addr count _ =>
    have hend := runMicros_busy (readWalk .pb count.toNat none)
      (s := { s.loadTx (.read addr count) with rseq := .sel }) hidle
    cases hend.symm.trans hb

section
variable (d : DisplaySide) (s : State)

theorem acceptBus_withDisplay (tx : Tx) (w : List Micro) :
    (s.withDisplay d).acceptBus tx w = (s.acceptBus tx w).withDisplay d := by cases tx <;> rfl

theorem precheck_acceptBus_withDisplay (tx : Tx) (w : List Micro) :
    precheck (s.withDisplay d) (.next ((s.withDisplay d).acceptBus tx w)) =
      mapNext (State.withDisplay d) (precheck s (.next (s.acceptBus tx w))) := by
  rw [acceptBus_withDisplay]
  exact precheck_mapNext (withDisplay_unseen d) s (.next (s.acceptBus tx w))

theorem beginWrreg_withDisplay (address : Nat) (byte : Byte) :
    beginWrreg address byte (s.withDisplay d) = mapNext (State.withDisplay d) (beginWrreg address byte s) := by
  unfold beginWrreg
  rw [← precheck_mapNext (withDisplay_unseen d)]
  congr 2
  split <;> rfl

theorem beginRdreg_withDisplay (address count : Nat) :
    beginRdreg address count (s.withDisplay d) = mapNext (State.withDisplay d) (beginRdreg address count s) := by
  unfold beginRdreg
  rw [← precheck_mapNext (withDisplay_unseen d)]
  congr 2
  show (if countBad s.cfg.maxCount count then _ else _) = _
  split
  · rfl
  · split <;> rfl

theorem runFrame_withDisplay (tx : Tx) {w : List Micro} (hw : w.all Micro.ofBus = true) :
    runFrame (s.withDisplay d) tx w = mapNext (State.withDisplay d) (runFrame s tx w) := by
  have hload : ({ (s.withDisplay d).loadTx tx with rseq := .sel } : State) =
      State.withDisplay d { s.loadTx tx with rseq := .sel } := by cases tx <;> rfl
  unfold runFrame
  rw [← internalCheck_mapNext (withDisplay_unseen d), hload, runMicros_unseen (withDisplay_unseen d) hw]
  rfl

theorem execHdrReadN_withDisplay (addr : RegAddr) :
    execHdrReadN addr (s.withDisplay d) = mapNext (State.withDisplay d) (execHdrReadN addr s) := by
  unfold execHdrReadN
  rw [← internalCheck_mapNext (withDisplay_unseen d)]
  congr 1
  show (if multiByteBit s.tCnt then _ else _) = _
  split
  · exact runFrame_withDisplay d s _ (readWalk_ofBus _ _ _)
  · rfl

/-- A bus row begins alike whatever the display side holds. -/
theorem beginOp_withDisplay {i : Instr} (hi : isBusRow i = true) :
    beginOp i (s.withDisplay d) = mapNext (State.withDisplay d) (beginOp i s) := by
  cases i with
  | wrreg address byte => exact beginWrreg_withDisplay d s address byte
  | rdreg address count => exact beginRdreg_withDisplay d s address count
  | idcheck => exact precheck_acceptBus_withDisplay d s _ _
  | activate => exact precheck_acceptBus_withDisplay d s _ _
  | sample => exact precheck_acceptBus_withDisplay d s _ _
  | hdrWrite addr => exact runFrame_withDisplay d s _ (writeWalk_ofBus none)
  | hdrRead1 addr => exact runFrame_withDisplay d s _ (readWalk_ofBus _ _ _)
  | hdrReadN addr => exact execHdrReadN_withDisplay d s addr
  | hdrReserved addr => rfl
  | _ => cases hi

end

/-- A bus row runs alike whatever the display side holds, and leaves it alone. -/
theorem exec_withDisplay {i : Instr} (hi : isBusRow i = true) {s t : State} (h : exec i s = .next t)
    (d : DisplaySide) : exec i (s.withDisplay d) = .next (t.withDisplay d) :=
  exec_unseen (withDisplay_unseen d) (beginOp_withDisplay d s hi)
    (fun _ hs1 hb => busBegun_ofBus (beginOp_busRow hi hs1).2 (beginOp_busRow hi hs1).1 hb) h

/-- Settles O40: checks, acceptance and phases of each unit's rows commute with any update of the other unit's registers. -/
theorem unitsShareNoState : Obligations.UnitsShareNoState := by
  refine ⟨?display, ?bus⟩
  case display =>
    intro i s t hi h busIn xfers dir mb addr cnt byte idval pwrval x y z cs hs hId hPwr rseq
    exact exec_withBus hi h ⟨busIn, xfers, dir, mb, addr, cnt, byte, idval, pwrval, x, y, z, cs, hs, hId, hPwr, rseq⟩
  case bus =>
    intro i s t hi h pstate nibble cursor oe rs en db pseq
    exact exec_withDisplay hi h ⟨pstate, nibble, cursor, oe, rs, en, db, pseq⟩

end Sys2Proof.Machine
end

section
/-!
SUPPORT. Waiting, the pins, the host's write of PB, and the phase by phase view of an operation: running it whole is leaving
its phases one by one, and it is in flight until the last of them is left.
-/

namespace Sys2Proof.Machine

/-! ### Waiting, the pins and PB -/

theorem step_of_no_inputs {s : State} (h : s.inputs = []) : step s = .next s := by
  rw [step, h]; rfl

/-- Settles O6: the step without a move is `waitMove`. -/
theorem waitsWithoutAMove : Obligations.WaitsWithoutAMove := fun _ => step_of_no_inputs

theorem pinLevel_csLine (s : State) :
    s.pinLevel s.cfg.csLine = some (if s.cs then s.cfg.csActive else !s.cfg.csActive) := if_pos rfl

theorem pinLevel_of_not_driven {s : State} {line : Nat} (ho : s.oe = false) (hline : line ≠ s.cfg.csLine) :
    s.pinLevel line = none := by
  rw [State.pinLevel, if_neg hline, ho]; rfl

/-- Settles O45: chip-select does not look at `oe`, every other line does. -/
theorem pinsAroundReset : Obligations.PinsAroundReset :=
  ⟨pinLevel_csLine, fun _ _ => pinLevel_of_not_driven, pinLevel_csLine State.reset⟩

theorem hostWritePb_inside {k : Nat} {s : State} (hb : s.busy = false) (hk : k < s.cfg.pbSize) (v : Byte) :
    hostWritePb k v s = .next { s with pb := memWrite k v s.pb } := by
  rw [hostWritePb, hb, if_neg Bool.false_ne_true, if_pos hk]

theorem hostWritePb_outside {k : Nat} {s : State} (hb : s.busy = false) (hk : s.cfg.pbSize ≤ k) (v : Byte) :
    hostWritePb k v s = .fault (.pbNoSuchByte k) := by
  rw [hostWritePb, hb, if_neg Bool.false_ne_true, if_neg hk.not_gt]

/-- Settles O46, by the read after a write of the payload buffer. -/
theorem hostWritesPb : Obligations.HostWritesPb := by
  intro s k v rest hb hin
  refine ⟨fun hk => ⟨memWrite k v s.pb, ?inside, fun j => memRead_memWrite k j v s.pb⟩, fun hk => ?outside⟩
  case inside => exact (step_of_inputs hin).trans (hostWritePb_inside (s := { s with inputs := rest }) hb hk v)
  case outside => exact (step_of_inputs hin).trans (hostWritePb_outside (s := { s with inputs := rest }) hb hk v)

/-! ### Phase by phase -/

/-- The operation in flight, run to its end, has left each phase of its walk. -/
theorem drain_eq_iterate_tick {s : State} (hb : s.busy = true) :
    drain s = Nat.iterate tick s.walk.length s := by
  have h := tick_iterate_eq_runMicros s.walk s
  rw [drain, if_pos hb]
  cases hw : s.walk with
  | nil => rfl
  | cons m w =>
    rw [hw, if_neg (List.cons_ne_nil m w), ← hw] at h
    rw [← hw]; exact h.symm

/-- Settles O7: what was begun is in flight, so running it whole is leaving its phases. -/
theorem execIsThePhasesInOrder : Obligations.ExecIsThePhasesInOrder := by
  intro i s s1 hbegin hb
  rw [exec_eq_complete_beginOp, hbegin, complete, drain_eq_iterate_tick hb]

theorem walk_tick (s : State) : (tick s).walk = s.walk.tail := by
  cases hw : s.walk with
  | nil => rw [tick, hw]; exact hw
  | cons m rest => rw [tick, hw]; exact walk_leave m _

theorem walk_iterate_tick (k : Nat) (s : State) : (Nat.iterate tick k s).walk = s.walk.drop k := by
  induction k generalizing s with
  | zero => rfl
  | succ k ih => rw [Function.iterate_succ_apply, ih, walk_tick, List.drop_tail]

theorem iterate_tick_keeps_inv {s : State} (h : s.Inv) (k : Nat) : (Nat.iterate tick k s).Inv := by
  induction k generalizing s with
  | zero => exact h
  | succ k ih => exact ih (tick_keeps_inv h)

/-- A block with phases still to leave is in flight (10_state R30). -/
theorem busy_of_inv {s : State} (h : s.Inv) (hw : s.walk ≠ []) : s.busy = true := by
  cases hb : s.busy with
  | true => rfl
  | false => exact absurd (idle_of_walkLegal h.walks hb).1 hw

/-- A block without a phase to leave is idle in both units (10_state R44, R52). -/
theorem idle_of_inv {s : State} (h : s.Inv) (hw : s.walk = []) :
    s.busy = false ∧ s.rseq = .idle ∧ s.pseq = .idle := by
  have hlegal := h.walks
  rw [hw, walkLegal, decide_eq_true_eq] at hlegal
  obtain ⟨hb, hr, hp, -⟩ := hlegal
  exact ⟨hb, hr, hp⟩

/-- Settles O8: leaving phases keeps the invariant, which says whether the block is in flight by what is left of the walk. -/
theorem inFlightUntilItsEnd : Obligations.InFlightUntilItsEnd := by
  intro s h
  refine ⟨fun k hk => busy_of_inv (iterate_tick_keeps_inv h k) ?inside, idle_of_inv (iterate_tick_keeps_inv h _) ?last⟩
  case inside => rw [walk_iterate_tick, ne_eq, List.drop_eq_nil_iff]; omega
  case last => rw [walk_iterate_tick, List.drop_length]

end Sys2Proof.Machine
end

section
/-!
SUPPORT. The header rows run by themselves: the write frame and the read frame as `runFrame` runs them.
-/

namespace Sys2Proof.Machine

theorem runFrame_open {s : State} (hb : s.busy = false) (hh : s.halted = false) (tx : Tx) (w : List Micro) :
    runFrame s tx w = .next (runMicros w { s.loadTx tx with rseq := .sel }) := internalCheck_open hb hh

/-- A write frame run by itself, as a whole (30_encoding R107). -/
theorem runMicros_writeFrame {s : State} (hb : s.busy = false) (addr : RegAddr) (byte : Byte) :
    runMicros (writeWalk none) { s.loadTx (.write addr byte) with rseq := .sel } =
      { s.afterFrames 2 (s.writeFrame 0 addr byte) with
        tDir := false, tAddr := addr, tMb := false, tCnt := 1, tByte := byte } := by
  rw [runMicros_eq_leaveAll _ _ (by simp [writeWalk]), leaveAll_writeWalk, headerByte_eq_headerWord]
  simp only [leave, State.emit, State.loadTx, State.afterFrames, State.writeFrame, hb, List.append_assoc,
    List.cons_append, List.nil_append]
  rfl

/-- A read frame into PB run by itself, as a whole (30_encoding R108). -/
theorem runMicros_readFrame {s : State} (hb : s.busy = false) (addr : RegAddr) (count : Byte) :
    runMicros (readWalk .pb count.toNat none) { s.loadTx (.read addr count) with rseq := .sel } =
      { s.afterFrames (1 + count.toNat) (s.readFrame 0 addr count.toNat) with
        tDir := true, tAddr := addr, tMb := multiByteBit count, tCnt := count
        pb := memWriteAll 0 ((List.range count.toNat).map fun j => s.answer (1 + j)) s.pb } := by
  rw [runMicros_eq_leaveAll _ _ (by simp [readWalk]), leaveAll_readWalk_pb, headerByte_eq_headerWord]
  simp only [State.loadTx, State.afterFrames, State.readFrame, hb, Nat.zero_add]
  rfl

theorem execHdrWrite_open {s : State} (hb : s.busy = false) (hh : s.halted = false) (addr : RegAddr) :
    execHdrWrite addr s = .next
      { s.afterFrames 2 (s.writeFrame 0 addr s.tByte) with
        tDir := false, tAddr := addr, tMb := false, tCnt := 1 } := by
  rw [execHdrWrite, runFrame_open hb hh, runMicros_writeFrame hb]
  rfl

theorem execHdrRead1_open {s : State} (hb : s.busy = false) (hh : s.halted = false) (addr : RegAddr) :
    execHdrRead1 addr s = .next
      { s.afterFrames 2 (s.readFrame 0 addr 1) with
        tDir := true, tAddr := addr, tMb := false, tCnt := 1, pb := memWrite 0 (s.answer 1) s.pb } := by
  rw [execHdrRead1, runFrame_open hb hh]
  exact congrArg Host.Outcome.next (runMicros_readFrame hb addr 1)

theorem execHdrReadN_open {s : State} (hb : s.busy = false) (hh : s.halted = false) (addr : RegAddr)
    (hcount : multiByteBit s.tCnt = true) :
    execHdrReadN addr s = .next
      { s.afterFrames (1 + s.tCnt.toNat) (s.readFrame 0 addr s.tCnt.toNat) with
        tDir := true, tAddr := addr, tMb := true
        pb := memWriteAll 0 ((List.range s.tCnt.toNat).map fun j => s.answer (1 + j)) s.pb } := by
  rw [execHdrReadN, internalCheck_open hb hh, if_pos hcount, runFrame_open hb hh, runMicros_readFrame hb, hcount]
  rfl

theorem execHdrReadN_single {s : State} (hb : s.busy = false) (hh : s.halted = false) (addr : RegAddr)
    (hcount : ¬ multiByteBit s.tCnt = true) : execHdrReadN addr s = .refused .noMultiByteCount := by
  rw [execHdrReadN, internalCheck_open hb hh, if_neg hcount]

/-- After `n` bytes written from PB[0] on, those read as written and every other as before. -/
theorem memRead_memWriteAll_range (n : Nat) (f : Nat → Byte) (m : List Host.Cell) (k : Nat) :
    memRead k (memWriteAll 0 ((List.range n).map f) m) = if k < n then some (f k) else memRead k m := by
  rw [memRead_memWriteAll]
  by_cases hk : k < n <;> simp [hk]

/-- Settles O20, by the whole frame of each row; the held count decides whether the multi-byte one exists. -/
theorem headerRowsRun : Obligations.HeaderRowsRun := by
  intro s addr hb hh
  refine ⟨execHdrWrite_open hb hh addr, execHdrRead1_open hb hh addr, fun hcount => ?multi, fun hcount => ?single⟩
  case multi =>
    exact ⟨_, execHdrReadN_open hb hh addr ((multiByteBit_iff _).mpr hcount), memRead_memWriteAll_range _ _ _⟩
  case single =>
    exact execHdrReadN_single hb hh addr (fun h => absurd ((multiByteBit_iff _).mp h) (by omega))

end Sys2Proof.Machine
end

section
/-!
SUPPORT. What a halted block answers: each row opens with one of three checks, and in a halted block each of them ends it.
-/

namespace Sys2Proof.Machine

/-- A row opens with the check of an operation, that of a reserved code or that of an internal row; the reserved header has no
step (60_exceptions R245, 30_encoding R103, R109; log 8). -/
theorem beginOp_opens (i : Instr) (s : State) :
    (∃ body, beginOp i s = precheck s body) ∨ beginOp i s = illegalOperation s ∨
      (∃ body, beginOp i s = internalCheck s body) ∨ beginOp i s = .refused .reservedHeader := by
  cases i with
  | reserved0 => exact .inr (.inl rfl)
  | reserved6 => exact .inr (.inl rfl)
  | reserved7 => exact .inr (.inl rfl)
  | reservedF => exact .inr (.inl rfl)
  | hdrWrite addr => exact .inr (.inr (.inl ⟨_, rfl⟩))
  | hdrRead1 addr => exact .inr (.inr (.inl ⟨_, rfl⟩))
  | hdrReadN addr => exact .inr (.inr (.inl ⟨_, rfl⟩))
  | hdrReserved addr => exact .inr (.inr (.inr rfl))
  | cmdClear => exact .inr (.inr (.inl ⟨_, rfl⟩))
  | cmdHome => exact .inr (.inr (.inl ⟨_, rfl⟩))
  | cmdEntry => exact .inr (.inr (.inl ⟨_, rfl⟩))
  | cmdDispOff => exact .inr (.inr (.inl ⟨_, rfl⟩))
  | cmdDispOn => exact .inr (.inr (.inl ⟨_, rfl⟩))
  | cmdInit4 => exact .inr (.inr (.inl ⟨_, rfl⟩))
  | cmdInit8 => exact .inr (.inr (.inl ⟨_, rfl⟩))
  | cmdSetGlyphAddr slot => exact .inr (.inr (.inl ⟨_, rfl⟩))
  | cmdSetCursor position => exact .inr (.inr (.inl ⟨_, rfl⟩))
  | dataByte value => exact .inr (.inr (.inl ⟨_, rfl⟩))
  | _ => exact .inl ⟨_, rfl⟩

/-- The only answers of a halted block are Halted and IllegalOp (60_exceptions R245, R250). -/
theorem beginOp_halted {i : Instr} {s t : State} (hh : s.halted = true) (h : beginOp i s = .next t) :
    ∃ code, (code = .halted ∨ code = .illegalOp) ∧ t = s.raise code := by
  obtain ⟨body, hi⟩ | hi | ⟨body, hi⟩ | hi := beginOp_opens i s
  · obtain ⟨-, ⟨-, rfl⟩ | ⟨hopen, -⟩⟩ := precheck_next (hi.symm.trans h)
    · exact ⟨_, .inl rfl, rfl⟩
    · cases hh.symm.trans hopen
  · exact ⟨_, .inr rfl, (illegalOperation_next (hi.symm.trans h)).2⟩
  · obtain ⟨-, hopen, -⟩ := internalCheck_next (hi.symm.trans h)
    cases hh.symm.trans hopen
  · cases hi.symm.trans h

theorem exec_halted {i : Instr} {s t : State} (hh : s.halted = true) (h : exec i s = .next t) :
    ∃ code, (code = .halted ∨ code = .illegalOp) ∧ t = s.raise code := by
  obtain ⟨s1, hbegin, rfl⟩ := exec_next h
  obtain ⟨code, hcode, rfl⟩ := beginOp_halted hh hbegin
  exact ⟨code, hcode, drain_raise s code⟩

/-- A move of a halted block other than reset answers an error or writes a PB byte (decision D13). -/
theorem takeMove_halted {m : Move} {s t : State} (hh : s.halted = true) (hw : s.walk = []) (hm : m ≠ .reset)
    (h : takeMove m s = .next t) :
    ((∀ k v, m ≠ .writePb k v) ∧ ∃ code, (code = .halted ∨ code = .illegalOp) ∧ t = s.raise code) ∨
      ∃ k v, m = .writePb k v ∧ t = { s with pb := memWrite k v s.pb } := by
  cases m with
  | issue w => obtain ⟨i, -, hexec⟩ := runWord_next (e := .host w) h; exact .inl ⟨nofun, exec_halted hh hexec⟩
  | start w => exact .inl ⟨nofun, beginOp_halted hh h⟩
  | ret => exact absurd hw (primitiveReturns_next h).1
  | writePb k v => exact .inr ⟨k, v, rfl, (hostWritePb_next h).2.2⟩
  | reset => exact absurd rfl hm
  | internal e => obtain ⟨i, -, hexec⟩ := runWord_next h; exact .inl ⟨nofun, exec_halted hh hexec⟩

/-- Settles O33, by the move taken: an error changes `status` and `nread` only, a PB write its byte only. -/
theorem haltIsFinal : Obligations.HaltIsFinal := by
  intro s t m rest hh hb hw hin hm hstep
  obtain ⟨hne, code, hcode, rfl⟩ | ⟨k, v, rfl, rfl⟩ :=
    takeMove_halted (s := { s with inputs := rest }) hh hw hm ((step_of_inputs hin).symm.trans hstep)
  · exact ⟨fun _ => ⟨hcode, raise_of_idle (s := { s with inputs := rest }) hb code⟩,
      fun k v hwrite => absurd hwrite (hne k v)⟩
  · refine ⟨fun hne => absurd rfl (hne k v), ?_⟩
    rintro _ _ ⟨⟩
    exact ⟨rfl, fun j => memRead_memWrite k j v s.pb⟩

end Sys2Proof.Machine
end

section
/-!
SUPPORT. A property that every phase of a walk keeps holds at its end; and from Ready on everything but reset keeps the display
state, the mode and the outputs.
-/

namespace Sys2Proof.Machine

/-- What each phase of a walk keeps, the walk keeps. -/
theorem runMicros_keeps {P : State → Prop} {phases : Micro → Bool}
    (hleave : ∀ m s w, phases m = true → P s → P (leave m { s with walk := w })) {w : List Micro} {s : State}
    (hw : w.all phases = true) (h : P s) : P (runMicros w s) := by
  induction w generalizing s with
  | nil => exact h
  | cons m w ih =>
    rw [List.all_cons, Bool.and_eq_true] at hw
    exact ih hw.2 (hleave m s w hw.1 h)

/-! ### The mode once set -/

/-- The display is Ready in this mode, its lines outputs (10_state R46, R47, R49). -/
def State.ReadyIn (nibble : Bool) (s : State) : Prop := s.pstate = .ready ∧ s.nibble = nibble ∧ s.oe = true

section
variable {n : Bool}

theorem leave_readyIn (m : Micro) {s : State} (h : s.ReadyIn n) : (leave m s).ReadyIn n := by
  have ⟨hready, hmode, hdriven⟩ := h
  cases m with
  | initLines => exact ⟨hready, hmode, rfl⟩
  | desel next => cases next with
    | none => exact h
    | some tx => cases tx <;> exact h
  | rdata dest k => cases dest <;> exact h
  | finish how =>
    rw [leave, finish_eq]
    refine ⟨?_, hmode, hdriven⟩
    split
    · rfl
    · exact hready
  | _ => exact h

theorem tick_readyIn {s : State} (h : s.ReadyIn n) : (tick s).ReadyIn n := by
  unfold tick
  split
  · exact h
  · next m rest _ => exact leave_readyIn (s := { s with walk := rest }) m h

theorem runMicros_readyIn (w : List Micro) {s : State} (h : s.ReadyIn n) : (runMicros w s).ReadyIn n :=
  runMicros_keeps (phases := fun _ => true) (fun m s w _ h => leave_readyIn (s := { s with walk := w }) m h)
    (List.all_eq_true.mpr fun _ _ => rfl) h

theorem busBegun_readyIn {s t : State} (h : s.ReadyIn n) (ht : BusBegun s t) : t.ReadyIn n := by
  cases ht with
  | writeFrame addr => exact runMicros_readyIn _ (s := { s.loadTx (.write addr s.tByte) with rseq := .sel }) h
  | readFrame addr count _ => exact runMicros_readyIn _ (s := { s.loadTx (.read addr count) with rseq := .sel }) h
  | _ => exact h

/-- SETUP is not accepted again (42_display R188). -/
theorem displayBegun_readyIn {s t : State} (h : s.ReadyIn n) (ht : DisplayBegun s t) : t.ReadyIn n := by
  cases ht with
  | setup nibbleMode hfirst => cases h.1.symm.trans hfirst
  | _ => exact h

theorem beginOp_readyIn {i : Instr} {s t : State} (h : s.ReadyIn n) (hbegin : beginOp i s = .next t) :
    t.ReadyIn n := by
  obtain ⟨-, ht | ht⟩ := beginOp_next hbegin
  · exact busBegun_readyIn h ht
  · exact displayBegun_readyIn h ht

theorem exec_readyIn {i : Instr} {s t : State} (h : s.ReadyIn n) (hexec : exec i s = .next t) : t.ReadyIn n := by
  obtain ⟨s1, hbegin, rfl⟩ := exec_next hexec
  unfold drain
  split
  · exact runMicros_readyIn _ (beginOp_readyIn h hbegin)
  · exact beginOp_readyIn h hbegin

theorem takeMove_readyIn {m : Move} {s t : State} (h : s.ReadyIn n) (hm : m ≠ .reset)
    (hmove : takeMove m s = .next t) : t.ReadyIn n := by
  cases m with
  | issue w => obtain ⟨i, -, hexec⟩ := runWord_next (e := .host w) hmove; exact exec_readyIn h hexec
  | start w => exact beginOp_readyIn h hmove
  | ret => obtain ⟨-, rfl⟩ := primitiveReturns_next hmove; exact tick_readyIn h
  | writePb k v => obtain ⟨-, -, rfl⟩ := hostWritePb_next hmove; exact h
  | reset => exact absurd rfl hm
  | internal e => obtain ⟨i, -, hexec⟩ := runWord_next hmove; exact exec_readyIn h hexec

end

/-- Settles O34: no phase undoes Ready, and SETUP is accepted only before it. -/
theorem modeIsSetOnce : Obligations.ModeIsSetOnce := by
  intro s t hready hoe hreset hstep
  have h : s.ReadyIn s.nibble := ⟨hready, rfl, hoe⟩
  obtain ⟨-, rfl⟩ | ⟨m, rest, hin, hmove⟩ := step_next hstep
  · exact h
  · exact takeMove_readyIn (s := { s with inputs := rest }) h (fun hm => hreset rest (hm ▸ hin)) hmove

end Sys2Proof.Machine
end

section
/-!
SUPPORT. Which rows write which registers: each phase that writes one belongs to the rows named for it, no row walks a phase that
belongs to others, and acceptance itself writes only what SETUP writes.
-/

namespace Sys2Proof.Machine

/-- SETUP, in either mode. -/
def isSetup : Instr → Bool
  | .setup _ => true
  | _ => false

theorem exists_of_isSetup {i : Instr} (h : isSetup i = true) : ∃ nibbleMode, i = .setup nibbleMode := by
  cases i with
  | setup nibbleMode => exact ⟨nibbleMode, rfl⟩
  | _ => cases h

theorem isSetup_eq_false {i : Instr} (h : ∀ nibbleMode, i ≠ .setup nibbleMode) : isSetup i = false :=
  Bool.eq_false_iff.mpr fun hi => (exists_of_isSetup hi).elim h

/-- The phases that row `i` may leave, as far as they write a register the host reads (20_memory R75, 10_state R33, R36, R37,
R46 to R49). -/
def ownsPhase (i : Instr) : Micro → Bool
  | .rdata .pb _ => writesPb i
  | .rdata .idval _ => decide (i = .idcheck)
  | .rdata .pwrval _ => decide (i = .activate)
  | .initLines => isSetup i
  | .finish .identity => decide (i = .idcheck)
  | .finish .sample => decide (i = .sample)
  | .finish .setup => isSetup i
  | .finish .showCursor => decide (i = .showcur)
  | .finish .hideCursor => decide (i = .hidecur)
  | _ => true

/-- A value, unless the row is a writer of the register that holds it. -/
def unlessWriter {α : Type} (writer : Bool) (v : α) : Option α := if writer then none else some v

theorem eq_of_unlessWriter {α : Type} {writer : Bool} {u v : α} (h : unlessWriter writer u = unlessWriter writer v)
    (hw : writer = false) : u = v := by
  subst hw; exact Option.some.inj h

/-- The registers that a row must leave alone, `none` for one of which the row is a named writer. -/
structure OthersRegs where
  pb : Option (List Host.Cell)
  xyz : Option (BitVec 16 × BitVec 16 × BitVec 16)
  identity : Option (Byte × Bool)
  power : Option Byte
  mode : Option (PState × Bool × Bool)
  cursor : Option Bool

/-- What row `i` must leave alone in `s`. -/
def State.othersRegs (i : Instr) (s : State) : OthersRegs where
  pb := unlessWriter (writesPb i) s.pb
  xyz := unlessWriter (decide (i = .sample)) (s.x, s.y, s.z)
  identity := unlessWriter (decide (i = .idcheck)) (s.idval, s.halted)
  power := unlessWriter (decide (i = .activate)) s.pwrval
  mode := unlessWriter (isSetup i) (s.pstate, s.nibble, s.oe)
  cursor := unlessWriter (isSetup i || decide (i = .showcur) || decide (i = .hidecur)) s.cursor

section
variable {i : Instr}

/-! ### Leaving phases -/

theorem leave_othersRegs {m : Micro} (hm : ownsPhase i m = true) (s : State) :
    (leave m s).othersRegs i = s.othersRegs i := by
  cases m with
  | rdata dest k =>
    cases dest with
    | pb =>
      have hw : writesPb i = true := hm
      simp only [State.othersRegs, unlessWriter, hw, if_true]; rfl
    | idval => cases of_decide_eq_true hm; rfl
    | pwrval => cases of_decide_eq_true hm; rfl
  | desel next =>
    cases next with
    | none => rfl
    | some tx => cases tx <;> rfl
  | initLines => obtain ⟨nibbleMode, rfl⟩ := exists_of_isSetup hm; rfl
  | finish how =>
    cases how with
    | ok n => rfl
    | identity =>
      cases of_decide_eq_true hm
      simp only [leave, State.finish, State.checkIdentity]; split <;> rfl
    | sample =>
      cases of_decide_eq_true hm
      simp only [leave, State.finish, State.decodeSample]; split <;> rfl
    | setup => obtain ⟨nibbleMode, rfl⟩ := exists_of_isSetup hm; rfl
    | showCursor => cases of_decide_eq_true hm; rfl
    | hideCursor => cases of_decide_eq_true hm; rfl
  | _ => rfl

theorem runMicros_othersRegs {w : List Micro} (hw : w.all (ownsPhase i) = true) (s : State) :
    (runMicros w s).othersRegs i = s.othersRegs i :=
  runMicros_keeps (P := fun t => t.othersRegs i = s.othersRegs i)
    (fun _ _ _ hm h => (leave_othersRegs hm _).trans h) hw rfl

theorem drain_othersRegs {s : State} (hw : s.busy = true → s.walk.all (ownsPhase i) = true) :
    (drain s).othersRegs i = s.othersRegs i := by
  unfold drain
  split
  · next hb => exact runMicros_othersRegs (hw hb) s
  · rfl

/-! ### The walks of the rows -/

theorem writeWalk_ownsPhase : (writeWalk none).all (ownsPhase i) = true := rfl

theorem readPhases_ownsPhase {dest : ReadDest} (hdest : ∀ k, ownsPhase i (.rdata dest k) = true) (first n : Nat) :
    (readPhases dest first n).all (ownsPhase i) = true := by
  induction n generalizing first with
  | zero => rfl
  | succ n ih => rw [readPhases, List.all_cons, hdest, ih]; rfl

theorem readWalk_ownsPhase {dest : ReadDest} (hdest : ∀ k, ownsPhase i (.rdata dest k) = true) (n : Nat)
    (next : Option Tx) : (readWalk dest n next).all (ownsPhase i) = true := by
  rw [readWalk, List.all_cons, List.all_cons, List.all_append, readPhases_ownsPhase hdest]; rfl

theorem activateWalk_ownsPhase (c : Params) : (activateWalk c).all (ownsPhase .activate) = true := by
  rw [activateWalk]
  cases c.actConfirm <;> rfl

theorem sendWalk_ownsPhase (nibble : Bool) (b : DisplayByte) (more : Bool) :
    (sendWalk nibble b more).all (ownsPhase i) = true := by cases nibble <;> rfl

theorem sendsWalk_ownsPhase (nibble : Bool) (bytes : List DisplayByte) :
    (sendsWalk nibble bytes).all (ownsPhase i) = true := by
  induction bytes with
  | nil => rfl
  | cons b bytes ih => rw [sendsWalk, List.all_append, sendWalk_ownsPhase, ih]; rfl

/-! ### Beginning a row -/

/-- Beginning row `i` in `s` gives no next state but one with the other rows' registers as in `s`, and with no phase of another
row to leave. -/
def BeginsOwn (i : Instr) (s : State) (r : Result) : Prop :=
  ∀ t, r = .next t → t.othersRegs i = s.othersRegs i ∧ (t.busy = true → t.walk.all (ownsPhase i) = true)

variable {s : State}

theorem beginsOwn_raise (code : Status) : BeginsOwn i s (.next (s.raise code)) := by
  rintro _ ⟨⟩
  exact ⟨rfl, nofun⟩

theorem beginsOwn_acceptBus (tx : Tx) {w : List Micro} (hw : w.all (ownsPhase i) = true) :
    BeginsOwn i s (.next (s.acceptBus tx w)) := by
  rintro _ ⟨⟩
  exact ⟨by cases tx <;> rfl, fun _ => by rw [acceptBus_walk, hw]⟩

theorem beginsOwn_acceptDisplay (bytes : List DisplayByte) {how : Finish} (hhow : ownsPhase i (.finish how) = true) :
    BeginsOwn i s (.next (s.acceptDisplay bytes how)) := by
  rintro _ ⟨⟩
  refine ⟨rfl, fun _ => ?_⟩
  rw [acceptDisplay_walk, List.all_append, sendsWalk_ownsPhase, List.all_cons, hhow]; rfl

theorem beginsOwn_acceptSetup (nibbleMode : Bool) : BeginsOwn (.setup nibbleMode) s (.next (s.acceptSetup nibbleMode)) := by
  rintro _ ⟨⟩
  refine ⟨rfl, fun _ => ?_⟩
  rw [State.acceptSetup, List.all_cons, List.all_append, sendsWalk_ownsPhase]; rfl

theorem beginsOwn_precheck {body : Result} (h : BeginsOwn i s body) : BeginsOwn i s (precheck s body) := by
  intro t ht
  obtain ⟨-, ⟨-, rfl⟩ | ⟨-, hbody⟩⟩ := precheck_next ht
  · exact beginsOwn_raise _ _ rfl
  · exact h t hbody

theorem beginsOwn_whenReady {body : Result} (h : BeginsOwn i s body) : BeginsOwn i s (whenReady s body) := by
  refine beginsOwn_precheck ?_
  split
  · exact h
  · exact beginsOwn_raise _

theorem beginsOwn_withPayload {n : Nat} {body : List Byte → Result} (h : ∀ bytes, BeginsOwn i s (body bytes)) :
    BeginsOwn i s (withPayload s n body) := fun t ht => h _ t (withPayload_next ht).2

theorem beginsOwn_illegalOperation : BeginsOwn i s (illegalOperation s) := by
  intro t ht
  obtain ⟨-, rfl⟩ := illegalOperation_next ht
  exact beginsOwn_raise _ _ rfl

theorem beginsOwn_runFrame (tx : Tx) {w : List Micro} (hw : w.all (ownsPhase i) = true) :
    BeginsOwn i s (runFrame s tx w) := by
  intro t ht
  obtain ⟨hb, rfl⟩ := runFrame_next ht
  have hend := runMicros_busy w (s := { s.loadTx tx with rseq := .sel }) (by simpa using hb)
  exact ⟨(runMicros_othersRegs hw _).trans (by cases tx <;> rfl), fun hbusy => by cases hend.symm.trans hbusy⟩

theorem beginsOwn_runSend (b : DisplayByte) : BeginsOwn i s (runSend s b) := by
  intro t ht
  obtain ⟨hb, -, hbody⟩ := internalCheck_next ht
  split at hbody
  · cases hbody
  · rw [runMicros_sendWalk s b hb] at hbody
    cases hbody; exact ⟨rfl, nofun⟩

theorem beginWrreg_own (address : Nat) (byte : Byte) :
    BeginsOwn (.wrreg address byte) s (beginWrreg address byte s) := by
  refine beginsOwn_precheck ?_
  split
  · exact beginsOwn_raise _
  · exact beginsOwn_acceptBus _ rfl

theorem beginRdreg_own (address count : Nat) : BeginsOwn (.rdreg address count) s (beginRdreg address count s) := by
  refine beginsOwn_precheck ?_
  split
  · exact beginsOwn_raise _
  · split
    · exact beginsOwn_raise _
    · refine beginsOwn_acceptBus _ ?_
      rw [List.all_append, readWalk_ownsPhase fun _ => rfl]; rfl

theorem beginSetup_own (nibbleMode : Bool) : BeginsOwn (.setup nibbleMode) s (beginSetup nibbleMode s) := by
  refine beginsOwn_precheck ?_
  split
  · exact beginsOwn_acceptSetup nibbleMode
  · exact beginsOwn_raise _

theorem beginMovecur_own (row col : Nat) : BeginsOwn (.movecur row col) s (beginMovecur row col s) := by
  refine beginsOwn_whenReady ?_
  split
  · exact beginsOwn_raise _
  · split
    · exact beginsOwn_raise _
    · exact beginsOwn_acceptDisplay _ rfl

theorem beginLdglyph_own (slot : Nat) : BeginsOwn (.ldglyph slot) s (beginLdglyph slot s) := by
  refine beginsOwn_whenReady ?_
  split
  · exact beginsOwn_raise _
  · exact beginsOwn_withPayload fun _ => beginsOwn_acceptDisplay _ rfl

theorem execHdrReadN_own (addr : RegAddr) : BeginsOwn (.hdrReadN addr) s (execHdrReadN addr s) := by
  intro t ht
  obtain ⟨-, -, hbody⟩ := internalCheck_next ht
  split at hbody
  · exact beginsOwn_runFrame _ (readWalk_ownsPhase (fun _ => rfl) _ _) t hbody
  · cases hbody

theorem beginOp_own (i : Instr) (s : State) : BeginsOwn i s (beginOp i s) := by
  cases i with
  | wrreg address byte => exact beginWrreg_own address byte
  | rdreg address count => exact beginRdreg_own address count
  | idcheck => exact beginsOwn_precheck (beginsOwn_acceptBus _ rfl)
  | activate => exact beginsOwn_precheck (beginsOwn_acceptBus _ (activateWalk_ownsPhase _))
  | sample => exact beginsOwn_precheck (beginsOwn_acceptBus _ rfl)
  | setup nibbleMode => exact beginSetup_own nibbleMode
  | wrbyte byte target => exact beginsOwn_whenReady (beginsOwn_acceptDisplay _ rfl)
  | movecur row col => exact beginMovecur_own row col
  | wrstr => exact beginsOwn_whenReady (beginsOwn_withPayload fun _ => beginsOwn_acceptDisplay _ rfl)
  | ldglyph slot => exact beginLdglyph_own slot
  | showcur => exact beginsOwn_whenReady (beginsOwn_acceptDisplay _ rfl)
  | hidecur => exact beginsOwn_whenReady (beginsOwn_acceptDisplay _ rfl)
  | reserved0 => exact beginsOwn_illegalOperation
  | reserved6 => exact beginsOwn_illegalOperation
  | reserved7 => exact beginsOwn_illegalOperation
  | reservedF => exact beginsOwn_illegalOperation
  | hdrWrite addr => exact beginsOwn_runFrame _ writeWalk_ownsPhase
  | hdrRead1 addr => exact beginsOwn_runFrame _ rfl
  | hdrReadN addr => exact execHdrReadN_own addr
  | hdrReserved addr => exact fun t ht => by cases ht
  | _ => exact beginsOwn_runSend _

/-- A row leaves alone every register of which it is no named writer. -/
theorem exec_othersRegs {t : State} (h : exec i s = .next t) : t.othersRegs i = s.othersRegs i := by
  obtain ⟨s1, hbegin, rfl⟩ := exec_next h
  obtain ⟨hregs, hphases⟩ := beginOp_own i s s1 hbegin
  exact (drain_othersRegs hphases).trans hregs

end

/-- Settles O41: the registers of the other rows, taken one by one. -/
theorem onlyTheNamedWriters : Obligations.OnlyTheNamedWriters := by
  intro i s t h
  have hregs := exec_othersRegs h
  refine ⟨fun hi => ?pb, fun hi => ?xyz, fun hi => ?identity, fun hi => ?power, fun hi => ?mode,
    fun hi hshow hhide => ?cursor⟩
  case pb => exact eq_of_unlessWriter (congrArg OthersRegs.pb hregs) hi
  case xyz =>
    have hxyz := eq_of_unlessWriter (congrArg OthersRegs.xyz hregs) (decide_eq_false hi)
    simpa only [Prod.mk.injEq] using hxyz
  case identity =>
    have hidentity := eq_of_unlessWriter (congrArg OthersRegs.identity hregs) (decide_eq_false hi)
    simpa only [Prod.mk.injEq] using hidentity
  case power => exact eq_of_unlessWriter (congrArg OthersRegs.power hregs) (decide_eq_false hi)
  case mode =>
    have hmode := eq_of_unlessWriter (congrArg OthersRegs.mode hregs) (isSetup_eq_false hi)
    simpa only [Prod.mk.injEq] using hmode
  case cursor =>
    refine eq_of_unlessWriter (congrArg OthersRegs.cursor hregs) ?_
    rw [isSetup_eq_false hi, decide_eq_false hshow, decide_eq_false hhide]; rfl

end Sys2Proof.Machine
end

section
/-!
SUPPORT. The signed value of a sample, from the value of the 16-bit word that the two bytes make.
-/

namespace Sys2Proof.Machine

/-- The high byte stands above the low one (30_encoding R121 (f)). -/
theorem toNat_sampleWord (low high : Byte) : (sampleWord low high).toNat = high.toNat * 256 + low.toNat := by
  rw [sampleWord, BitVec.toNat_append, ← Nat.shiftLeft_add_eq_or_of_lt low.isLt, Nat.shiftLeft_eq]

/-- Settles O19: the word is read as negative from 0x8000 on, which is where the high byte reaches 0x80. -/
theorem sampleWordIsSigned : Obligations.SampleWordIsSigned := by
  intro low high
  have hlow := low.isLt
  rw [BitVec.toInt_eq_toNat_cond, toNat_sampleWord]
  split <;> split <;> omega

end Sys2Proof.Machine
end

section
/-!
SUPPORT. The events a display operation adds to the trace, and what a receiver latches from them.
-/

namespace Sys2Proof.Machine

/-! ### The events of an accepted display operation -/

theorem trace_leaveAll_sendsWalk (bytes : List DisplayByte) (s : State) :
    (leaveAll (sendsWalk s.nibble bytes) s).trace = s.trace ++ bytes.flatMap (sendEvents s.nibble) := by
  cases bytes with
  | nil => simp [sendsWalk]
  | cons b bytes => rw [leaveAll_sendsWalk _ _ (by simp)]

/-- Running a walk that ends in the completion of its operation adds the events of the phases before it. -/
theorem trace_runMicros_finish (w : List Micro) (how : Finish) (s : State) :
    (runMicros (w ++ [.finish how]) s).trace = (leaveAll w s).trace := by
  rw [runMicros_eq_leaveAll _ _ (by simp), leaveAll_append]
  exact finish_trace how (leaveAll w s)

theorem trace_drain_acceptDisplay (s : State) (bytes : List DisplayByte) (how : Finish) :
    (drain (s.acceptDisplay bytes how)).trace = s.trace ++ bytes.flatMap (sendEvents s.nibble) := by
  rw [drain, if_pos (acceptDisplay_busy s bytes how), acceptDisplay_walk, trace_runMicros_finish]
  exact trace_leaveAll_sendsWalk bytes (s.acceptDisplay bytes how)

/-- SETUP makes the lines outputs and sends its bytes under the mode just written (42_display R188). -/
theorem trace_drain_acceptSetup (s : State) (nibbleMode : Bool) :
    (drain (s.acceptSetup nibbleMode)).trace =
      s.trace ++ .initLines :: (setupBytes nibbleMode s.cfg.byteSetupHome).flatMap (sendEvents nibbleMode) := by
  have hsends := trace_leaveAll_sendsWalk (setupBytes nibbleMode s.cfg.byteSetupHome)
    (leave .initLines (s.acceptSetup nibbleMode))
  have hrun := trace_runMicros_finish
    (.initLines :: sendsWalk nibbleMode (setupBytes nibbleMode s.cfg.byteSetupHome)) .setup (s.acceptSetup nibbleMode)
  rw [leaveAll_cons] at hrun
  exact (hrun.trans hsends).trans (List.append_assoc _ _ _)

/-! ### The receiver -/

theorem high_of_mux (h l : Nibble) : (h ++ l : Byte).extractLsb' 4 4 = h := by
  revert h l; decide

/-- The two halves of a byte, high first, make the byte again (20_memory R78). -/
theorem halves_append (v : Byte) : v.extractLsb' 4 4 ++ v.extractLsb' 0 4 = v := by
  revert v; decide

/-- The receiver reads the target off the register-select level (42_display R184). -/
theorem target_of_rsLevel (target : Target) :
    (if rsLevel target = true then Target.data else Target.command) = target := by
  cases target <;> rfl

/-- From the events of SEND a receiver latches the byte sent, in one piece or in two nibbles (42_display R180, R183). -/
theorem latched_sendEvents {nibble : Bool} {r : Receiver} (hr : r.pending = none) (b : DisplayByte) (rest : List Event) :
    latched nibble r (sendEvents nibble b ++ rest) =
      b :: latched nibble ⟨rsLevel b.target, linesAfterSend nibble r.lines b.value, none⟩ rest := by
  obtain ⟨select, lines, pending⟩ := r
  cases hr
  cases nibble with
  | false => simp [sendEvents, latched, linesAfterSend, target_of_rsLevel]
  | true => simp [sendEvents, latched, linesAfterSend, target_of_rsLevel, high_of_mux, low_of_mux, halves_append]

/-- A receiver latches the bytes sent, in order. -/
theorem latched_sends {nibble : Bool} {r : Receiver} (hr : r.pending = none) (bytes : List DisplayByte) :
    latched nibble r (bytes.flatMap (sendEvents nibble)) = bytes := by
  induction bytes generalizing r with
  | nil => rfl
  | cons b bytes ih => rw [List.flatMap_cons, latched_sendEvents hr, ih rfl]

/-! ### The seven display operations -/

/-- `t` has more events than `s`, and from them `r` latches `bytes`. -/
def Latches (nibble : Bool) (r : Receiver) (s t : State) (bytes : List DisplayByte) : Prop :=
  ∃ new, t.trace = s.trace ++ new ∧ latched nibble r new = bytes

section
variable {s t : State} {r : Receiver} (hr : r.pending = none)
include hr

theorem acceptSetup_latches {nibbleMode : Bool} (h : complete (.next (s.acceptSetup nibbleMode)) = .next t) :
    Latches nibbleMode r s t (setupBytes nibbleMode s.cfg.byteSetupHome) := by
  cases h
  exact ⟨_, trace_drain_acceptSetup s nibbleMode, latched_sends hr _⟩

theorem acceptDisplay_latches {bytes : List DisplayByte} {how : Finish}
    (h : complete (.next (s.acceptDisplay bytes how)) = .next t) : Latches s.nibble r s t bytes := by
  cases h
  exact ⟨_, trace_drain_acceptDisplay s bytes how, latched_sends hr _⟩

variable (hb : s.busy = false) (hh : s.halted = false)
include hb hh

theorem execSetup_latches {nibbleMode : Bool} (hfirst : s.pstate = .uninitialized)
    (h : execSetup nibbleMode s = .next t) : Latches nibbleMode r s t (setupBytes nibbleMode s.cfg.byteSetupHome) := by
  rw [execSetup, beginSetup, precheck_open hb hh, if_pos hfirst] at h
  exact acceptSetup_latches hr h

variable (hready : s.pstate = .ready)
include hready

theorem execWrbyte_latches {byte : Byte} {target : Target} (h : execWrbyte byte target s = .next t) :
    Latches s.nibble r s t [⟨byte, target⟩] := by
  rw [execWrbyte, beginWrbyte, whenReady_open hb hh hready] at h
  exact acceptDisplay_latches hr h

theorem execMovecur_latches {row col : Nat} {base : Byte} (hrow : row < s.cfg.rows) (hcol : col < s.cfg.cols)
    (hbase : rowBase row = some base) (h : execMovecur row col s = .next t) :
    Latches s.nibble r s t [⟨cursorCommand base col, .command⟩] := by
  have hin : ¬ positionBad s.cfg.rows s.cfg.cols row col = true := by rw [positionBad_iff]; omega
  rw [execMovecur, beginMovecur, whenReady_open hb hh hready, if_neg hin, hbase] at h
  exact acceptDisplay_latches hr h

theorem execWrstr_latches (h : execWrstr s = .next t) :
    firstMissing s.pb 0 s.cfg.cols = none ∧ Latches s.nibble r s t (dataBytes (memBytes s.pb 0 s.cfg.cols)) := by
  obtain ⟨s1, hbegin, rfl⟩ := complete_next h
  rw [beginWrstr, whenReady_open hb hh hready] at hbegin
  obtain ⟨hpayload, hbegin⟩ := withPayload_next hbegin
  cases hbegin
  exact ⟨hpayload, acceptDisplay_latches hr rfl⟩

theorem execLdglyph_latches {slot : Nat} (hslot : slot < 8) (h : execLdglyph slot s = .next t) :
    firstMissing s.pb 0 glyphHeight = none ∧
      Latches s.nibble r s t (⟨glyphCommand slot, .command⟩ :: dataBytes (memBytes s.pb 0 glyphHeight)) := by
  have hin : ¬ slotBad slot = true := by rw [slotBad_iff]; omega
  obtain ⟨s1, hbegin, rfl⟩ := complete_next h
  rw [beginLdglyph, whenReady_open hb hh hready, if_neg hin] at hbegin
  obtain ⟨hpayload, hbegin⟩ := withPayload_next hbegin
  cases hbegin
  exact ⟨hpayload, acceptDisplay_latches hr rfl⟩

theorem execShowcur_latches (h : execShowcur s = .next t) :
    Latches s.nibble r s t [⟨cmdDispOnByte, .command⟩] := by
  rw [execShowcur, beginShowcur, whenReady_open hb hh hready] at h
  exact acceptDisplay_latches hr h

theorem execHidecur_latches (h : execHidecur s = .next t) :
    Latches s.nibble r s t [⟨cmdDispOffByte, .command⟩] := by
  rw [execHidecur, beginHidecur, whenReady_open hb hh hready] at h
  exact acceptDisplay_latches hr h

end

/-! ### The bytes as the statement names them -/

/-- Every supported row has a base (00_scope R7, 30_encoding R112). -/
theorem rowBase_of_ok {c : Params} (hok : c.ok = true) {row : Nat} (hrow : row < c.rows) :
    ∃ base, rowBase row = some base := by
  simp only [Params.ok, Bool.and_eq_true, decide_eq_true_eq] at hok
  have hfour : row < rowBases.length := show row < 4 by omega
  exact ⟨rowBases[row], List.getElem?_eq_getElem hfour⟩

theorem length_dataBytes_memBytes {m : List Host.Cell} {n : Nat} (h : firstMissing m 0 n = none) :
    (dataBytes (memBytes m 0 n)).length = n := by
  rw [dataBytes, List.length_map, length_memBytes h]

/-- The payload sent is PB from index 0 on, as data (43_display R213, R216). -/
theorem dataBytes_memBytes_getElem? {s : State} {n : Nat} (h : firstMissing s.pb 0 n = none) {k : Nat} (hk : k < n) :
    ∃ v, s.pbAt k = some v ∧ (dataBytes (memBytes s.pb 0 n))[k]? = some ⟨v, .data⟩ := by
  have hlen : k < (memBytes s.pb 0 n).length := by rwa [length_memBytes h]
  have hread := memRead_of_memBytes h hk
  rw [Nat.zero_add, List.getElem?_eq_getElem hlen] at hread
  exact ⟨_, hread, by rw [dataBytes, List.getElem?_map, List.getElem?_eq_getElem hlen]; rfl⟩

/-- The glyph address is one 8-bit number (30_encoding R113). -/
theorem glyphCommand_eq (slot : Nat) : glyphCommand slot = BitVec.ofNat 8 (0x40 + 8 * slot) :=
  (BitVec.ofNat_add _ _).symm

/-- Settles O39: each accepted operation puts the events of SEND of its bytes on the trace, and a receiver latches these. -/
theorem receiverGetsTheBytes : Obligations.ReceiverGetsTheBytes := by
  intro s t r hb hh hr
  refine ⟨fun m hfirst h => ?setup, fun hready => ⟨fun byte target h => ?wrbyte, fun row col hok hrow hcol h => ?movecur,
    fun _ h => ?wrstr, fun slot hslot h => ?ldglyph, fun h => ?showcur, fun h => ?hidecur⟩⟩
  case setup =>
    obtain ⟨new, hnew, hlatched⟩ := execSetup_latches hr hb hh hfirst h
    refine ⟨new, hnew, hlatched.trans ?_⟩
    cases m <;> cases s.cfg.byteSetupHome <;> rfl
  case wrbyte => exact execWrbyte_latches hr hb hh hready h
  case movecur =>
    obtain ⟨base, hbase⟩ := rowBase_of_ok hok hrow
    obtain ⟨new, hnew, hlatched⟩ := execMovecur_latches hr hb hh hready hrow hcol hbase h
    exact ⟨new, hnew, base, hbase, hlatched⟩
  case wrstr =>
    obtain ⟨hpayload, new, hnew, hlatched⟩ := execWrstr_latches hr hb hh hready h
    exact ⟨new, _, hnew, hlatched, length_dataBytes_memBytes hpayload, fun _ => dataBytes_memBytes_getElem? hpayload⟩
  case ldglyph =>
    obtain ⟨hpayload, new, hnew, hlatched⟩ := execLdglyph_latches hr hb hh hready hslot h
    rw [glyphCommand_eq] at hlatched
    exact ⟨new, _, hnew, hlatched, length_dataBytes_memBytes hpayload, fun _ => dataBytes_memBytes_getElem? hpayload⟩
  case showcur => exact execShowcur_latches hr hb hh hready h
  case hidecur => exact execHidecur_latches hr hb hh hready h

end Sys2Proof.Machine
end

section
/-!
SUPPORT. The framing of the bus events (20_memory R86, 30_encoding R105 to R109): a frame and a sent display byte each leave the
framing automaton outside a frame, and every row adds only such events.
-/

namespace Sys2Proof.Machine

/-! ### Events that are whole frames -/

/-- The events are whole frames, with display events between them: what follows them is judged as if it stood alone. -/
def WholeFrames (fill : Byte) (events : List Event) : Prop :=
  ∀ rest, framed fill .outside (events ++ rest) = framed fill .outside rest

theorem wholeFrames_nil (fill : Byte) : WholeFrames fill [] := fun _ => rfl

theorem WholeFrames.append {fill : Byte} {a b : List Event} (ha : WholeFrames fill a) (hb : WholeFrames fill b) :
    WholeFrames fill (a ++ b) := fun rest => by rw [List.append_assoc, ha, hb]

theorem WholeFrames.framed {fill : Byte} {events : List Event} (h : WholeFrames fill events) :
    framed fill .outside events = true := by
  have hend := h []
  rwa [List.append_nil] at hend

/-- The direction bit of a header (30_encoding R105). -/
theorem headerWord_direction (dir mb : Bool) (addr : RegAddr) : (headerWord dir mb addr).getLsbD 7 = dir := by
  rw [headerWord, BitVec.getLsbD_append, BitVec.getLsbD_append]; simp

/-- The multi-byte bit of a header (30_encoding R105). -/
theorem headerWord_multiByte (dir mb : Bool) (addr : RegAddr) : (headerWord dir mb addr).getLsbD 6 = mb := by
  rw [headerWord, BitVec.getLsbD_append, BitVec.getLsbD_append]; simp

theorem wholeFrames_writeFrame (fill : Byte) (s : State) (k : Nat) (addr : RegAddr) (byte : Byte) :
    WholeFrames fill (s.writeFrame k addr byte) := fun rest => by
  simp only [State.writeFrame, List.cons_append, List.nil_append, framed, headerWord_direction, headerWord_multiByte]
  simp

/-- Inside a read, FILL bytes are counted (30_encoding R108). -/
theorem framed_fillBytes (fill : Byte) (multi : Bool) (got : Nat) (answers : List Byte) (rest : List Event) :
    framed fill (.inRead multi got) (answers.map (.xfer fill) ++ rest) =
      framed fill (.inRead multi (got + answers.length)) rest := by
  induction answers generalizing got with
  | nil => rfl
  | cons r answers ih =>
    rw [List.map_cons, List.cons_append, framed, decide_eq_true rfl, Bool.true_and, ih, List.length_cons,
      Nat.add_assoc, Nat.add_comm 1]

theorem wholeFrames_readFrame (s : State) (k : Nat) (addr : RegAddr) {count : Nat} (hpos : 1 ≤ count) :
    WholeFrames s.cfg.fill (s.readFrame k addr count) := fun rest => by
  have hbytes : (List.range count).map (fun j => Event.xfer s.cfg.fill (s.answer (k + 1 + j))) =
      ((List.range count).map fun j => s.answer (k + 1 + j)).map (.xfer s.cfg.fill) := by
    rw [List.map_map]; rfl
  have hcount : (if decide (1 < count) = true then decide (2 ≤ count) else decide (count = 1)) = true := by
    rcases hpos.eq_or_lt with rfl | hmulti
    · rfl
    · rw [decide_eq_true hmulti, if_pos rfl]; exact decide_eq_true hmulti
  simp only [State.readFrame, List.cons_append, List.nil_append, List.append_assoc, framed, headerWord_direction,
    headerWord_multiByte, hbytes, framed_fillBytes, if_true, List.length_map, List.length_range, Nat.zero_add, hcount,
    Bool.true_and]

theorem wholeFrames_sendEvents (fill : Byte) (nibble : Bool) (b : DisplayByte) :
    WholeFrames fill (sendEvents nibble b) := fun rest => by
  cases nibble <;> rfl

theorem wholeFrames_sends (fill : Byte) (nibble : Bool) (bytes : List DisplayByte) :
    WholeFrames fill (bytes.flatMap (sendEvents nibble)) := by
  induction bytes with
  | nil => exact wholeFrames_nil fill
  | cons b bytes ih => exact (wholeFrames_sendEvents fill nibble b).append ih

/-! ### The frames of a walk -/

/-- `t` has the events of `s` and after them whole frames. -/
def State.AddsFrames (fill : Byte) (s t : State) : Prop :=
  ∃ new, t.trace = s.trace ++ new ∧ WholeFrames fill new

theorem State.AddsFrames.of_same_trace {fill : Byte} {s t : State} (h : t.trace = s.trace) : s.AddsFrames fill t :=
  ⟨[], h.trans (List.append_nil _).symm, wholeFrames_nil fill⟩

theorem State.AddsFrames.trans {fill : Byte} {s t u : State} (h1 : s.AddsFrames fill t) (h2 : t.AddsFrames fill u) :
    s.AddsFrames fill u := by
  obtain ⟨a, hta, ha⟩ := h1
  obtain ⟨b, hub, hb⟩ := h2
  exact ⟨a ++ b, by rw [hub, hta, List.append_assoc], ha.append hb⟩

/-- Leaving R_DESEL deasserts chip-select, whatever is loaded next (10_state R44). -/
theorem leave_desel_trace (next : Option Tx) (s : State) : (leave (.desel next) s).trace = s.trace ++ [.cs false] := by
  cases next with
  | none => rfl
  | some tx => exact loadTx_trace (s.emit (.cs false)) tx

theorem writeWalk_addsFrames (fill : Byte) {s : State} (hdir : s.tDir = false) (hmb : s.tMb = false)
    (next : Option Tx) : s.AddsFrames fill (leaveAll (writeWalk next) s) := by
  refine ⟨s.writeFrame 0 s.tAddr s.tByte, ?_, wholeFrames_writeFrame fill s 0 _ _⟩
  rw [leaveAll_writeWalk, leave_desel_trace, hdir, hmb, headerByte_eq_headerWord]
  exact List.append_assoc _ _ _

theorem readWalk_pwrval_addsFrames {s : State} (hdir : s.tDir = true) (hmb : s.tMb = false) (next : Option Tx) :
    s.AddsFrames s.cfg.fill (leaveAll (readWalk .pwrval 1 next) s) := by
  refine ⟨s.readFrame 0 s.tAddr 1, ?_, wholeFrames_readFrame s 0 _ (le_refl 1)⟩
  rw [leaveAll_readWalk_pwrval, leave_desel_trace, hdir, hmb, headerByte_eq_headerWord]
  exact List.append_assoc _ _ _

theorem readWalk_idval_addsFrames {s : State} (hdir : s.tDir = true) (hmb : s.tMb = false) :
    s.AddsFrames s.cfg.fill (leaveAll (readWalk .idval 1 none) s) := by
  refine ⟨s.readFrame 0 s.tAddr 1, ?_, wholeFrames_readFrame s 0 _ (le_refl 1)⟩
  rw [leaveAll_readWalk_idval, hdir, hmb, headerByte_eq_headerWord]
  rfl

theorem readWalk_pb_addsFrames {s : State} {count : Nat} (hdir : s.tDir = true) (hmb : s.tMb = decide (1 < count))
    (hpos : 1 ≤ count) : s.AddsFrames s.cfg.fill (leaveAll (readWalk .pb count none) s) := by
  refine ⟨s.readFrame 0 s.tAddr count, ?_, wholeFrames_readFrame s 0 _ hpos⟩
  rw [leaveAll_readWalk_pb, hdir, hmb, headerByte_eq_headerWord]
  rfl

/-- The frames of ACTIVATE: read, write back, and the confirming read where ACT_CONFIRM (41_sensor R163). -/
theorem activateFrames_addsFrames {s : State} (hdir : s.tDir = true) (hmb : s.tMb = false) (confirm : Bool) :
    s.AddsFrames s.cfg.fill (leaveAll (readWalk .pwrval 1 (some (.writeBack s.cfg.pwrReg)) ++
      if confirm then writeWalk (some (.read s.cfg.pwrReg 1)) ++ readWalk .pwrval 1 none else writeWalk none) s) := by
  rw [leaveAll_append]
  refine (readWalk_pwrval_addsFrames hdir hmb (some (.writeBack s.cfg.pwrReg))).trans ?_
  rw [leaveAll_readWalk_pwrval]
  cases confirm with
  | false => exact writeWalk_addsFrames _ rfl rfl none
  | true =>
    rw [if_pos rfl, leaveAll_append]
    refine (writeWalk_addsFrames _ rfl rfl (some (.read s.cfg.pwrReg 1))).trans ?_
    rw [leaveAll_writeWalk]
    exact readWalk_pwrval_addsFrames rfl rfl none

/-! ### The frames of a row -/

/-- What beginning a row gives, run to its end, has added whole frames to the trace of `s`. -/
def RunsFrames (s : State) (r : Result) : Prop := ∀ t, r = .next t → s.AddsFrames s.cfg.fill (drain t)

section
variable {s : State}

theorem runsFrames_raise (code : Status) : RunsFrames s (.next (s.raise code)) := fun _ h => by
  cases h
  rw [drain_raise]
  exact .of_same_trace rfl

theorem runsFrames_precheck {body : Result} (h : RunsFrames s body) : RunsFrames s (precheck s body) := fun t ht => by
  obtain ⟨-, ⟨-, rfl⟩ | ⟨-, hbody⟩⟩ := precheck_next ht
  · exact runsFrames_raise .halted _ rfl
  · exact h t hbody

/-- An accepted bus operation adds the frames of its walk. -/
theorem runsFrames_acceptBus {tx : Tx} {w : List Micro} {how : Finish}
    (h : ({ s.loadTx tx with busy := true, rseq := .sel } : State).AddsFrames s.cfg.fill
      (leaveAll w { s.loadTx tx with busy := true, rseq := .sel })) :
    RunsFrames s (.next (s.acceptBus tx (w ++ [.finish how]))) := fun _ ht => by
  cases ht
  obtain ⟨new, hnew, hwhole⟩ := h
  refine ⟨new, ?_, hwhole⟩
  rw [drain_acceptBus]
  exact (finish_trace how _).trans (hnew.trans (congrArg (· ++ new) (loadTx_trace s tx)))

theorem runsFrames_acceptRead (addr : RegAddr) {count : Nat} (hpos : 1 ≤ count) (hmax : count ≤ 255) (how : Finish) :
    RunsFrames s (.next (s.acceptBus (.read addr (countOf count)) (readWalk .pb count none ++ [.finish how]))) := by
  have hcount : (countOf count).toNat = count := Nat.mod_eq_of_lt (by omega)
  refine runsFrames_acceptBus (readWalk_pb_addsFrames rfl ?_ hpos)
  show decide (1 < (countOf count).toNat) = decide (1 < count)
  rw [hcount]

theorem beginWrreg_frames (address : Nat) (byte : Byte) : RunsFrames s (beginWrreg address byte s) := by
  refine runsFrames_precheck ?_
  split
  · exact runsFrames_raise _
  · exact runsFrames_acceptBus (writeWalk_addsFrames _ rfl rfl none)

theorem beginRdreg_frames (hmax : s.cfg.maxCount ≤ 255) (address count : Nat) :
    RunsFrames s (beginRdreg address count s) := by
  refine runsFrames_precheck ?_
  split
  · exact runsFrames_raise _
  · next hcount =>
    rw [countBad_iff] at hcount
    split
    · exact runsFrames_raise _
    · exact runsFrames_acceptRead _ (by omega) (by omega) _

theorem beginIdcheck_frames : RunsFrames s (beginIdcheck s) :=
  runsFrames_precheck (runsFrames_acceptBus (readWalk_idval_addsFrames rfl rfl))

theorem beginActivate_frames : RunsFrames s (beginActivate s) :=
  runsFrames_precheck (runsFrames_acceptBus (activateFrames_addsFrames rfl rfl s.cfg.actConfirm))

theorem beginSample_frames : RunsFrames s (beginSample s) :=
  runsFrames_precheck (runsFrames_acceptRead _ (by decide) (by decide) .sample)

theorem execHdrWrite_frames (addr : RegAddr) : RunsFrames s (execHdrWrite addr s) := fun _ h => by
  obtain ⟨hb, rfl⟩ := runFrame_next h
  rw [runMicros_writeFrame hb]
  exact ⟨_, rfl, wholeFrames_writeFrame _ s 0 addr s.tByte⟩

theorem runFrame_read_frames (addr : RegAddr) {count : Byte} {n : Nat} (hn : count.toNat = n) (hpos : 1 ≤ n) :
    RunsFrames s (runFrame s (.read addr count) (readWalk .pb n none)) := fun _ h => by
  subst hn
  obtain ⟨hb, rfl⟩ := runFrame_next h
  rw [runMicros_readFrame hb]
  exact ⟨_, rfl, wholeFrames_readFrame s 0 addr hpos⟩

theorem execHdrRead1_frames (addr : RegAddr) : RunsFrames s (execHdrRead1 addr s) :=
  runFrame_read_frames (count := 1) addr rfl (le_refl 1)

/-- The multi-byte header runs for a held count of at least 2 only (30_encoding R109). -/
theorem execHdrReadN_frames (addr : RegAddr) : RunsFrames s (execHdrReadN addr s) := fun t h => by
  obtain ⟨-, -, h⟩ := internalCheck_next h
  split at h
  · next hcount => exact runFrame_read_frames addr rfl ((multiByteBit_iff _).mp hcount).le t h
  · cases h

theorem beginOp_busRow_frames (hmax : s.cfg.maxCount ≤ 255) {i : Instr} (hi : isBusRow i = true) :
    RunsFrames s (beginOp i s) := by
  cases i with
  | wrreg address byte => exact beginWrreg_frames address byte
  | rdreg address count => exact beginRdreg_frames hmax address count
  | idcheck => exact beginIdcheck_frames
  | activate => exact beginActivate_frames
  | sample => exact beginSample_frames
  | hdrWrite addr => exact execHdrWrite_frames addr
  | hdrRead1 addr => exact execHdrRead1_frames addr
  | hdrReadN addr => exact execHdrReadN_frames addr
  | hdrReserved addr => intro t h; cases h
  | _ => cases hi

/-- A display row adds no bus event. -/
theorem displayBegun_frames {t : State} (h : DisplayBegun s t) : RunsFrames s (.next t) := fun _ ht => by
  cases ht
  cases h with
  | error code => exact runsFrames_raise code _ rfl
  | setup nibbleMode hfirst =>
    exact ⟨_, trace_drain_acceptSetup s nibbleMode, fun rest => wholeFrames_sends _ nibbleMode _ rest⟩
  | sends bytes how hready hhow => exact ⟨_, trace_drain_acceptDisplay s bytes how, wholeFrames_sends _ _ _⟩
  | sendAlone b hset => exact ⟨_, rfl, wholeFrames_sends _ _ [b]⟩

theorem beginOp_frames (hmax : s.cfg.maxCount ≤ 255) (i : Instr) : RunsFrames s (beginOp i s) := by
  cases hbus : isBusRow i with
  | true => exact beginOp_busRow_frames hmax hbus
  | false =>
    intro t h
    cases hdisplay : isDisplayRow i with
    | true => exact displayBegun_frames (beginOp_displayRow hdisplay h).2 t rfl
    | false =>
      obtain ⟨-, rfl⟩ := beginOp_reserved_next (by rw [hbus, hdisplay]; rfl) h
      exact runsFrames_raise .illegalOp _ rfl

end

/-- Settles O37: the events of a row are whole frames, so the framing automaton accepts them. -/
theorem framesAreWellFormed : Obligations.FramesAreWellFormed := by
  intro i s t hinv _ h
  obtain ⟨s1, hbegin, rfl⟩ := exec_next h
  obtain ⟨-, hmax⟩ := maxCount_bounds hinv.params
  obtain ⟨new, hnew, hwhole⟩ := beginOp_frames hmax i s1 hbegin
  exact ⟨new, hnew, hwhole.framed⟩

end Sys2Proof.Machine
end

section
/-!
SUPPORT. The encoding (30_encoding R100 to R113): the fields of an assembled word, one equation of the host decoder per operation
code, and from them that decoder and encoder are inverse to each other up to the ignored bits.
-/

namespace Sys2Proof.Machine

/-! ### The fields of the host command word -/

@[simp] theorem hostOp_hostWord (op : BitVec 4) (a b : Byte) : hostOp (hostWord op a b) = op := by
  rw [hostOp, hostWord, BitVec.extractLsb'_append_eq_of_le (by decide)]
  exact BitVec.extractLsb'_append_eq_left

@[simp] theorem hostA_hostWord (op : BitVec 4) (a b : Byte) : hostA (hostWord op a b) = a := by
  rw [hostA, hostWord, BitVec.extractLsb'_append_eq_of_le (by decide)]
  exact BitVec.extractLsb'_append_eq_right

@[simp] theorem hostB_hostWord (op : BitVec 4) (a b : Byte) : hostB (hostWord op a b) = b :=
  BitVec.extractLsb'_append_eq_right

/-- A host command word is its three fields (R100). -/
theorem hostWord_fields (w : HostWord) : hostWord (hostOp w) (hostA w) (hostB w) = w := by
  apply BitVec.eq_of_toNat_eq
  rw [Laws.hostWord_toNat]
  simp only [hostOp, hostA, hostB, BitVec.extractLsb'_toNat, Nat.shiftRight_eq_div_pow]
  omega

theorem hostWord_and (op op' : BitVec 4) (a a' b b' : Byte) :
    hostWord op a b &&& hostWord op' a' b' = hostWord (op &&& op') (a &&& a') (b &&& b') := by
  rw [hostWord, hostWord, hostWord, BitVec.and_append, BitVec.and_append]

/-! ### Operands in their fields -/

/-- A number that fits its field is read back from it (R102). -/
theorem toNat_ofNat_of_fitsField {n : Nat} (h : Instr.fitsField n = true) : (BitVec.ofNat 8 n).toNat = n := by
  rw [Instr.fitsField, decide_eq_true_eq] at h
  rw [BitVec.toNat_ofNat, Nat.mod_eq_of_lt (by omega)]

@[simp] theorem fitsField_toNat (v : Byte) : Instr.fitsField v.toNat = true :=
  decide_eq_true (Nat.le_of_lt_succ v.isLt)

theorem byte_and_ones (v : Byte) : v &&& 0xFF = BitVec.ofNat 8 v.toNat := by
  rw [BitVec.ofNat_toNat, BitVec.setWidth_eq]
  exact BitVec.and_allOnes

theorem byte_and_one_flag (v : Byte) : v &&& 1 = if v.getLsbD 0 then 1 else 0 := by
  revert v; decide

theorem byte_and_one_target (v : Byte) : v &&& 1 = if targetOfBit (v.getLsbD 0) = .data then 1 else 0 := by
  rw [byte_and_one_flag]
  cases v.getLsbD 0 <;> rfl

/-! ### The host decoder, one equation per operation code (R101, R103) -/

section
variable {w : HostWord}

theorem decodeHost_reserved0 (h : hostOp w = 0x0) : decodeHost w = .reserved0 := by
  rw [decodeHost, h]; rfl

theorem decodeHost_wrreg (h : hostOp w = 0x1) : decodeHost w = .wrreg (hostA w).toNat (hostB w) := by
  rw [decodeHost, h]; rfl

theorem decodeHost_rdreg (h : hostOp w = 0x2) : decodeHost w = .rdreg (hostA w).toNat (hostB w).toNat := by
  rw [decodeHost, h]; rfl

theorem decodeHost_idcheck (h : hostOp w = 0x3) : decodeHost w = .idcheck := by
  rw [decodeHost, h]; rfl

theorem decodeHost_activate (h : hostOp w = 0x4) : decodeHost w = .activate := by
  rw [decodeHost, h]; rfl

theorem decodeHost_sample (h : hostOp w = 0x5) : decodeHost w = .sample := by
  rw [decodeHost, h]; rfl

theorem decodeHost_reserved6 (h : hostOp w = 0x6) : decodeHost w = .reserved6 := by
  rw [decodeHost, h]; rfl

theorem decodeHost_reserved7 (h : hostOp w = 0x7) : decodeHost w = .reserved7 := by
  rw [decodeHost, h]; rfl

theorem decodeHost_setup (h : hostOp w = 0x8) : decodeHost w = .setup ((hostA w).getLsbD 0) := by
  rw [decodeHost, h]; rfl

theorem decodeHost_wrbyte (h : hostOp w = 0x9) :
    decodeHost w = .wrbyte (hostA w) (targetOfBit ((hostB w).getLsbD 0)) := by
  rw [decodeHost, h]; rfl

theorem decodeHost_movecur (h : hostOp w = 0xA) : decodeHost w = .movecur (hostA w).toNat (hostB w).toNat := by
  rw [decodeHost, h]; rfl

theorem decodeHost_wrstr (h : hostOp w = 0xB) : decodeHost w = .wrstr := by
  rw [decodeHost, h]; rfl

theorem decodeHost_ldglyph (h : hostOp w = 0xC) : decodeHost w = .ldglyph (hostA w).toNat := by
  rw [decodeHost, h]; rfl

theorem decodeHost_showcur (h : hostOp w = 0xD) : decodeHost w = .showcur := by
  rw [decodeHost, h]; rfl

theorem decodeHost_hidecur (h : hostOp w = 0xE) : decodeHost w = .hidecur := by
  rw [decodeHost, h]; rfl

theorem decodeHost_reservedF (h : hostOp w = 0xF) : decodeHost w = .reservedF := by
  rw [decodeHost, h]; rfl

end

theorem opCode_cases (op : BitVec 4) :
    op = 0x0 ∨ op = 0x1 ∨ op = 0x2 ∨ op = 0x3 ∨ op = 0x4 ∨ op = 0x5 ∨ op = 0x6 ∨ op = 0x7 ∨
      op = 0x8 ∨ op = 0x9 ∨ op = 0xA ∨ op = 0xB ∨ op = 0xC ∨ op = 0xD ∨ op = 0xE ∨ op = 0xF := by
  revert op; decide

/-! ### Decode of encode -/

theorem headerWord_address (dir mb : Bool) (addr : RegAddr) : (headerWord dir mb addr).extractLsb' 0 6 = addr :=
  BitVec.extractLsb'_append_eq_right

theorem decodeCommand_glyphAddr (slot : BitVec 3) :
    decodeCommand ((0b01 : BitVec 2) ++ slot ++ (0b000 : BitVec 3)) = .ok (.cmdSetGlyphAddr slot) := by
  revert slot; decide

theorem decodeCommand_cursor (position : BitVec 7) :
    decodeCommand ((0b1 : BitVec 1) ++ position) = .ok (.cmdSetCursor position) := by
  revert position; decide

/-- Settles O2, by the row: an operand is read back from the field it was written to, and a row without one is one fixed word. -/
theorem decodeOfEncode : Obligations.DecodeOfEncode := by
  intro i hwf
  cases i with
  | wrreg address byte =>
    simp [encode, decode, decodeHost_wrreg, toNat_ofNat_of_fitsField hwf]
  | rdreg a b | movecur a b =>
    obtain ⟨ha, hb⟩ := Bool.and_eq_true_iff.mp hwf
    simp [encode, decode, decodeHost_rdreg, decodeHost_movecur, toNat_ofNat_of_fitsField ha, toNat_ofNat_of_fitsField hb]
  | ldglyph slot =>
    simp [encode, decode, decodeHost_ldglyph, toNat_ofNat_of_fitsField hwf]
  | setup nibbleMode => cases nibbleMode <;> rfl
  | wrbyte byte target =>
    cases target <;> simp [encode, decode, decodeHost_wrbyte, targetOfBit]
  | hdrWrite addr | hdrRead1 addr | hdrReadN addr | hdrReserved addr =>
    simp only [encode, decode, decodeHeader, headerWord_direction, headerWord_multiByte, headerWord_address]
  | cmdSetGlyphAddr slot => exact decodeCommand_glyphAddr slot
  | cmdSetCursor position => exact decodeCommand_cursor position
  | _ => rfl

/-! ### Encode of decode -/

/-- What a field decodes to fits its field, so every host command word is a well-formed instruction (R103). -/
theorem wellFormed_decodeHost (w : HostWord) : (decodeHost w).wellFormed = true := by
  unfold decodeHost
  split <;> simp only [Instr.wellFormed, fitsField_toNat, Bool.and_self]

section
variable {w : HostWord} {op : BitVec 4} {i : Instr}

/-- A row is written back as its word with the ignored bits cleared if each operand field is written back so (R102). -/
theorem encode_decodeHost_of_fields {a b maskA maskB : Byte} (hop : hostOp w = op) (hrow : decodeHost w = i)
    (hencode : encode i = .host (hostWord op a b)) (hused : usedBits op = hostWord 0xF maskA maskB)
    (ha : hostA w &&& maskA = a) (hb : hostB w &&& maskB = b) :
    encode (decodeHost w) = .host (w &&& usedBits (hostOp w)) := by
  have hw : w &&& usedBits op = hostWord op a b := by
    rw [← hostWord_fields w, hused, hostWord_and, hop, ha, hb]
    exact congrArg (hostWord · a b) BitVec.and_allOnes
  rw [hrow, hencode, hop, hw]

theorem encode_decodeHost_of_noOperand (hop : hostOp w = op) (hrow : decodeHost w = i)
    (hencode : encode i = .host (hostWord op 0 0)) (hused : usedBits op = hostWord 0xF 0 0) :
    encode (decodeHost w) = .host (w &&& usedBits (hostOp w)) :=
  encode_decodeHost_of_fields hop hrow hencode hused BitVec.and_zero BitVec.and_zero

end

/-- The encoder gives back every bit of a host command word but the ignored ones, which it writes 0 (R101, R102). -/
theorem encode_decodeHost (w : HostWord) : encode (decodeHost w) = .host (w &&& usedBits (hostOp w)) := by
  obtain h | h | h | h | h | h | h | h | h | h | h | h | h | h | h | h := opCode_cases (hostOp w)
  · exact encode_decodeHost_of_noOperand h (decodeHost_reserved0 h) rfl rfl
  · exact encode_decodeHost_of_fields h (decodeHost_wrreg h) rfl rfl (byte_and_ones _) BitVec.and_allOnes
  · exact encode_decodeHost_of_fields h (decodeHost_rdreg h) rfl rfl (byte_and_ones _) (byte_and_ones _)
  · exact encode_decodeHost_of_noOperand h (decodeHost_idcheck h) rfl rfl
  · exact encode_decodeHost_of_noOperand h (decodeHost_activate h) rfl rfl
  · exact encode_decodeHost_of_noOperand h (decodeHost_sample h) rfl rfl
  · exact encode_decodeHost_of_noOperand h (decodeHost_reserved6 h) rfl rfl
  · exact encode_decodeHost_of_noOperand h (decodeHost_reserved7 h) rfl rfl
  · exact encode_decodeHost_of_fields h (decodeHost_setup h) rfl rfl (byte_and_one_flag _) BitVec.and_zero
  · exact encode_decodeHost_of_fields h (decodeHost_wrbyte h) rfl rfl BitVec.and_allOnes (byte_and_one_target _)
  · exact encode_decodeHost_of_fields h (decodeHost_movecur h) rfl rfl (byte_and_ones _) (byte_and_ones _)
  · exact encode_decodeHost_of_noOperand h (decodeHost_wrstr h) rfl rfl
  · exact encode_decodeHost_of_fields h (decodeHost_ldglyph h) rfl rfl (byte_and_ones _) BitVec.and_zero
  · exact encode_decodeHost_of_noOperand h (decodeHost_showcur h) rfl rfl
  · exact encode_decodeHost_of_noOperand h (decodeHost_hidecur h) rfl rfl
  · exact encode_decodeHost_of_noOperand h (decodeHost_reservedF h) rfl rfl

theorem decode_encode_decodeHost (w : HostWord) : decode (encode (decodeHost w)) = .ok (decodeHost w) :=
  decodeOfEncode _ (wellFormed_decodeHost w)

/-- Settles O3: the encoder tells decoded words apart by their used bits, and its word decodes to the same instruction. -/
theorem ignoredBitsDoNotMatter : Obligations.IgnoredBitsDoNotMatter := by
  refine ⟨fun w => ⟨wellFormed_decodeHost w, decode_encode_decodeHost w, encode_decodeHost w⟩, fun v w => ⟨?alike, ?used⟩⟩
  case alike =>
    intro h
    have hrow : decodeHost v = decodeHost w := Except.ok.inj h
    have hword := encode_decodeHost v
    rw [hrow, encode_decodeHost w] at hword
    exact (Encoded.host.inj hword).symm
  case used =>
    intro h
    have hword : encode (decodeHost v) = encode (decodeHost w) := by rw [encode_decodeHost, encode_decodeHost, h]
    calc decode (.host v) = decode (encode (decodeHost v)) := (decode_encode_decodeHost v).symm
      _ = decode (encode (decodeHost w)) := by rw [hword]
      _ = decode (.host w) := decode_encode_decodeHost w

/-! ### Words of the specification, and the header byte -/

/-- Settles O1, by running the decoder on each word. -/
theorem specWordsDecode : Obligations.SpecWordsDecode := by
  unfold Obligations.SpecWordsDecode
  decide

/-- Settles O4: the OR of the three disjoint fields is the header word `RW || MB || ADDR`, whose fields are read back. -/
theorem headerByteLayout : Obligations.HeaderByteLayout := by
  refine ⟨multiByteBit_iff, fun dir mb addr => ⟨?write, ?read, ?direction, ?multiByte, ?address⟩⟩
  case write => exact congrArg (· ||| addr.setWidth 8) BitVec.or_zero
  case read => cases mb <;> rfl
  case direction => rw [headerByte_eq_headerWord, headerWord_direction]
  case multiByte => rw [headerByte_eq_headerWord, headerWord_multiByte]
  case address => rw [headerByte_eq_headerWord, headerWord_address]

end Sys2Proof.Machine
end

section
/-!
SUPPORT. The rows that are no operations of the host: the reserved codes and the reserved header, and SEND of one byte run by
itself, with the settle delay of a byte.
-/

namespace Sys2Proof.Machine

/-! ### The reserved rows -/

theorem illegalOperation_idle {s : State} (hb : s.busy = false) :
    illegalOperation s = .next { s with status := .illegalOp, nread := 0 } := by
  rw [illegalOperation, if_neg (by simp [hb]), raise_of_idle hb]

/-- Settles O30: the four codes decode to their rows, and each row is the one answer of an illegal operation. -/
theorem reservedCodesAreIllegal : Obligations.ReservedCodesAreIllegal := by
  refine ⟨fun w => ⟨?code0, ?code6, ?code7, ?codeF⟩, fun s hb => ?rows⟩
  case code0 => exact fun h => congrArg Except.ok (decodeHost_reserved0 h)
  case code6 => exact fun h => congrArg Except.ok (decodeHost_reserved6 h)
  case code7 => exact fun h => congrArg Except.ok (decodeHost_reserved7 h)
  case codeF => exact fun h => congrArg Except.ok (decodeHost_reservedF h)
  case rows =>
    have hillegal := illegalOperation_idle hb
    exact ⟨hillegal, hillegal, hillegal, hillegal⟩

/-- Settles O21: the row's meaning is the refusal. -/
theorem reservedHeaderStops : Obligations.ReservedHeaderStops := fun _ _ => rfl

/-! ### SEND of one byte run by itself -/

section
variable {s : State}

theorem runSend_setUp (hb : s.busy = false) (hh : s.halted = false) (hset : s.pstate ≠ .uninitialized)
    (b : DisplayByte) : runSend s b = .next (s.afterSends [b]) := by
  rw [runSend, internalCheck_open hb hh, if_neg hset, runMicros_sendWalk s b hb]

theorem runSend_beforeSetup (hb : s.busy = false) (hh : s.halted = false) (hset : s.pstate = .uninitialized)
    (b : DisplayByte) : runSend s b = .refused .sendBeforeSetup := by
  rw [runSend, internalCheck_open hb hh, if_pos hset]

end

theorem exec_displayByteRow {i : Instr} (hi : isDisplayByteRow i = true) : ∃ b, ∀ s, exec i s = runSend s b := by
  cases i with
  | cmdClear | cmdHome | cmdEntry | cmdDispOff | cmdDispOn | cmdInit4 | cmdInit8
  | cmdSetGlyphAddr slot | cmdSetCursor position | dataByte value => exact ⟨_, fun _ => rfl⟩
  | _ => cases hi

/-- The glyph address byte, computed or in the table's bits (30_encoding R113). -/
theorem glyphCommand_bits (slot : BitVec 3) :
    glyphCommand slot.toNat = (0b01 : BitVec 2) ++ slot ++ (0b000 : BitVec 3) := by
  revert slot; decide

/-- The cursor address byte, computed or in the table's bits (30_encoding R112). -/
theorem cursorByte_bits (position : BitVec 7) :
    (0x80 : Byte) ||| position.setWidth 8 = (0b1 : BitVec 1) ++ position := by
  revert position; decide

/-- Settles O28: every display byte row is SEND of its byte, which runs whole once SETUP was accepted and not before. -/
theorem displayByteRowsRun : Obligations.DisplayByteRowsRun := by
  intro s hb hh
  refine ⟨fun hset => ?setUp, fun hset i hi => ?beforeSetup⟩
  case setUp =>
    have hsend := runSend_setUp hb hh hset
    refine ⟨hsend _, hsend _, hsend _, hsend _, hsend _, hsend _, hsend _, fun slot => ?glyph, fun position => ?cursor,
      fun value => hsend _⟩
    case glyph => rw [← glyphCommand_bits]; exact hsend _
    case cursor => rw [← cursorByte_bits]; exact hsend _
  case beforeSetup =>
    obtain ⟨b, hrow⟩ := exec_displayByteRow hi
    rw [hrow, runSend_beforeSetup hb hh hset]

/-! ### The settle delay -/

/-- The two slow commands, clear-display and home (30_encoding R115). -/
def isSlow (b : DisplayByte) : Prop := b.target = .command ∧ (b.value = 0x01 ∨ b.value = 0x02)

theorem settleClass_slow {b : DisplayByte} (h : isSlow b) : settleClass b = .long := by
  obtain ⟨htarget, hvalue⟩ := h
  rw [settleClass, htarget]
  exact if_pos hvalue

theorem settleClass_other {b : DisplayByte} (h : ¬ isSlow b) : settleClass b = .short := by
  rw [settleClass]
  split
  · rfl
  · next htarget => exact if_neg fun hvalue => h ⟨htarget, hvalue⟩

theorem tShort_lt_tLong {c : Params} (h : c.ok = true) : c.tShort < c.tLong := by
  simp only [Params.ok, Bool.and_eq_true, decide_eq_true_eq] at h
  omega

/-- Settles O42: a slow command takes T_LONG, every other byte T_SHORT, and R7 has T_SHORT below T_LONG. -/
theorem slowCommandsSettleLonger : Obligations.SlowCommandsSettleLonger := by
  intro c slow other hok htarget hvalue hother
  rw [settleClass_slow ⟨htarget, hvalue⟩, settleClass_other hother]
  exact tShort_lt_tLong hok

end Sys2Proof.Machine
end

section
/-!
SUPPORT. The register operations WRREG and RDREG: an operation's check followed by its completion, and an accepted frame run to
its end. The frame lemmas leave open how the operation ends, so that they serve every operation of one such frame.
-/

namespace Sys2Proof.Machine

/-! ### The check and the completion of an operation -/

section
variable {s : State}

/-- A halted block answers every operation with Halted (60_exceptions R245 step 3). -/
theorem complete_precheck_halted (hb : s.busy = false) (hh : s.halted = true) (body : Result) :
    complete (precheck s body) = .next { s with status := .halted, nread := 0 } := by
  rw [precheck, if_neg (by simp [hb]), if_pos hh, complete_raise hb]

theorem complete_precheck_raise (hb : s.busy = false) (hh : s.halted = false) (code : Status) :
    complete (precheck s (.next (s.raise code))) = .next { s with status := code, nread := 0 } := by
  rw [precheck_open hb hh, complete_raise hb]

theorem complete_precheck_next (hb : s.busy = false) (hh : s.halted = false) (s1 : State) :
    complete (precheck s (.next s1)) = .next (drain s1) := by
  rw [precheck_open hb hh, complete]

end

/-! ### An accepted frame, run to its end -/

/-- Completing an operation does not look at the walk. -/
theorem finish_withWalk (how : Finish) (s : State) (w : List Micro) :
    ({ s with walk := w } : State).finish how = { s.finish how with walk := w } := leave_walk (.finish how) s w

/-- An accepted write frame (30_encoding R107). -/
theorem drain_acceptBus_write (s : State) (addr : RegAddr) (byte : Byte) (how : Finish) :
    drain (s.acceptBus (.write addr byte) (writeWalk none ++ [.finish how])) =
      State.finish
        { s.afterFrames 2 (s.writeFrame 0 addr byte) with
          busy := true, tDir := false, tAddr := addr, tMb := false, tCnt := 1, tByte := byte } how := by
  rw [drain_acceptBus, ← finish_withWalk, leaveAll_writeWalk, headerByte_eq_headerWord]
  simp only [leave, State.emit, State.loadTx, List.append_assoc]
  rfl

theorem multiByteBit_countOf {n : Nat} (hn : n ≤ 255) : multiByteBit (countOf n) = decide (1 < n) := by
  have htoNat : (countOf n).toNat = n := Nat.mod_eq_of_lt (by omega)
  rw [multiByteBit, htoNat]

/-- An accepted read frame of `n` bytes into PB (30_encoding R108). -/
theorem drain_acceptBus_readPb (s : State) (addr : RegAddr) {n : Nat} (hn : n ≤ 255) (how : Finish) :
    drain (s.acceptBus (.read addr (countOf n)) (readWalk .pb n none ++ [.finish how])) =
      State.finish
        { s.afterFrames (1 + n) (s.readFrame 0 addr n) with
          busy := true, tDir := true, tAddr := addr, tMb := decide (1 < n), tCnt := countOf n
          pb := memWriteAll 0 ((List.range n).map fun j => s.answer (1 + j)) s.pb } how := by
  rw [drain_acceptBus, ← finish_withWalk, leaveAll_readWalk_pb, headerByte_eq_headerWord]
  simp only [State.loadTx, multiByteBit_countOf hn]
  rfl

/-! ### WRREG and RDREG in an idle block -/

section
variable {s : State} {address : Nat}

theorem execWrreg_ok (hb : s.busy = false) (hh : s.halted = false) (haddr : address ≤ 0x3F) (byte : Byte) :
    execWrreg address byte s = .next
      { s.afterFrames 2 (s.writeFrame 0 (regAddrOf address) byte) with
        tDir := false, tAddr := regAddrOf address, tMb := false, tCnt := 1, tByte := byte
        status := .ok, nread := 0 } := by
  have hgood : ¬ addressBad address = true := by rw [addressBad_iff]; omega
  rw [execWrreg, beginWrreg, if_neg hgood, complete_precheck_next hb hh, drain_acceptBus_write]
  rfl

theorem execWrreg_badAddress (hb : s.busy = false) (hh : s.halted = false) (haddr : 0x3F < address) (byte : Byte) :
    execWrreg address byte s = .next { s with status := .invalidArgument, nread := 0 } := by
  rw [execWrreg, beginWrreg, if_pos ((addressBad_iff address).mpr haddr), complete_precheck_raise hb hh]

variable {count : Nat}

theorem execRdreg_ok (hb : s.busy = false) (hh : s.halted = false) (hpos : 1 ≤ count) (hbyte : count ≤ 255)
    (hmax : count ≤ s.cfg.maxCount) (haddr : address ≤ 0x3F) :
    execRdreg address count s = .next
      { s.afterFrames (1 + count) (s.readFrame 0 (regAddrOf address) count) with
        tDir := true, tAddr := regAddrOf address, tMb := decide (1 < count), tCnt := countOf count
        pb := memWriteAll 0 ((List.range count).map fun j => s.answer (1 + j)) s.pb
        status := .ok, nread := countOf count } := by
  have hgoodCount : ¬ countBad s.cfg.maxCount count = true := by rw [countBad_iff]; omega
  have hgoodAddress : ¬ addressBad address = true := by rw [addressBad_iff]; omega
  rw [execRdreg, beginRdreg, if_neg hgoodCount, if_neg hgoodAddress, complete_precheck_next hb hh,
    drain_acceptBus_readPb _ _ hbyte]
  rfl

/-- The count is checked before the address, and both answer InvalidArgument (40_register_bus R146, R147). -/
theorem execRdreg_badArgument (hb : s.busy = false) (hh : s.halted = false)
    (hbad : count < 1 ∨ s.cfg.maxCount < count ∨ 0x3F < address) :
    execRdreg address count s = .next { s with status := .invalidArgument, nread := 0 } := by
  rw [execRdreg, beginRdreg]
  by_cases hcount : countBad s.cfg.maxCount count = true
  · rw [if_pos hcount, complete_precheck_raise hb hh]
  · have haddr : addressBad address = true := by
      rw [countBad_iff] at hcount
      rw [addressBad_iff]
      omega
    rw [if_neg hcount, if_pos haddr, complete_precheck_raise hb hh]

end

/-- Settles O14: the accepted operation is its write frame; otherwise the check that fails answers. -/
theorem wrregRule : Obligations.WrregRule := by
  refine ⟨fun w hw => congrArg Except.ok (decodeHost_wrreg hw), fun s address byte hb => ⟨?ok, ?badAddress, ?halted⟩⟩
  case ok => exact fun hh haddr => execWrreg_ok hb hh haddr byte
  case badAddress => exact fun hh haddr => execWrreg_badAddress hb hh haddr byte
  case halted => exact fun hh => complete_precheck_halted hb hh _

/-- Settles O15: the accepted operation is its read frame, which writes PB from index 0 on; otherwise a check answers. -/
theorem rdregRule : Obligations.RdregRule := by
  refine ⟨fun w hw => congrArg Except.ok (decodeHost_rdreg hw), fun s address count hb => ⟨?ok, ?badArgument, ?halted⟩⟩
  case ok =>
    exact fun hh hpos hbyte hmax haddr =>
      ⟨_, execRdreg_ok hb hh hpos hbyte hmax haddr, memRead_memWriteAll_range _ _ _⟩
  case badArgument => exact fun hh hbad => execRdreg_badArgument hb hh hbad
  case halted => exact fun hh => complete_precheck_halted hb hh _

end Sys2Proof.Machine
end

section
/-!
SUPPORT. The sensor operations IDCHECK, ACTIVATE and SAMPLE: what the comparison and the decode at their ends do, and their
accepted frames run to their ends.
-/

namespace Sys2Proof.Machine

/-! ### How the sensor operations end -/

section
variable {s : State}

/-- IDCHECK's comparison of an equal byte (41_sensor R160). -/
theorem checkIdentity_of_eq (h : s.idval = s.cfg.idValue) : s.checkIdentity = s.done .ok 1 :=
  if_neg fun hbad => (identityBad_iff _ _).mp hbad h

/-- IDCHECK's comparison of any other byte: the block halts (41_sensor R160, R242). -/
theorem checkIdentity_of_ne (h : s.idval ≠ s.cfg.idValue) :
    s.checkIdentity = { s with halted := true }.done .identityMismatch 1 := if_pos ((identityBad_iff _ _).mpr h)

/-- SAMPLE's decode of six bytes that stand in PB (41_sensor R166). -/
theorem decodeSample_of_bytes {f : Nat → Byte} (h : ∀ k < 6, s.pbAt k = some (f k)) :
    s.decodeSample =
      { s with x := f 1 ++ f 0, y := f 3 ++ f 2, z := f 5 ++ f 4, hasSample := true } := by
  simp only [State.decodeSample, h, Nat.reduceLT, sampleWord]

end

/-! ### Their frames -/

/-- IDCHECK's accepted read frame (41_sensor R160). -/
theorem drain_acceptBus_readIdval (s : State) (addr : RegAddr) (how : Finish) :
    drain (s.acceptBus (.read addr 1) (readWalk .idval 1 none ++ [.finish how])) =
      State.finish
        { s.afterFrames 2 (s.readFrame 0 addr 1) with
          busy := true, tDir := true, tAddr := addr, tMb := false, tCnt := 1
          idval := s.answer 1, hasId := true } how := by
  rw [drain_acceptBus, ← finish_withWalk, leaveAll_readWalk_idval, headerByte_eq_headerWord]
  rfl

/-- ACTIVATE's read frame and its write-back, up to leaving the latter's R_DESEL: the byte written is computed from the
byte just read (41_sensor R163). -/
theorem leaveAll_readModifyWrite (s : State) (addr : RegAddr) (next : Option Tx) :
    leaveAll (readWalk .pwrval 1 (some (.writeBack addr)) ++ writeWalk next)
        { s.loadTx (.read addr 1) with busy := true, rseq := .sel } =
      leave (.desel next)
        { s with
          trace := s.trace ++ s.readFrame 0 addr 1 ++ [.cs true, .xfer (headerWord false false addr) (s.answer 2),
            .xfer (setMeasureBit s.cfg.measureBit (s.answer 1)) (s.answer 3)]
          busIn := s.busIn.drop 4, xfers := s.xfers + 4, busy := true, cs := true, rseq := .desel
          tDir := false, tAddr := addr, tMb := false, tCnt := 1
          tByte := setMeasureBit s.cfg.measureBit (s.answer 1)
          pwrval := s.answer 1, hasPwr := true } := by
  rw [leaveAll_append, leaveAll_readWalk_pwrval, leaveAll_writeWalk]
  congr 1
  simp only [leave, State.emit, State.loadTx, State.answer, busAnswer_drop, headerByte_eq_headerWord, List.drop_drop,
    List.append_assoc, Nat.add_assoc]
  rfl

/-- ACTIVATE without a confirming read (41_sensor R163). -/
theorem drain_acceptBus_activate (s : State) (hconfirm : s.cfg.actConfirm = false) :
    drain (s.acceptBus (.read s.cfg.pwrReg 1) (activateWalk s.cfg)) =
      { s.afterFrames 4 (s.readFrame 0 s.cfg.pwrReg 1 ++
          s.writeFrame 2 s.cfg.pwrReg (setMeasureBit s.cfg.measureBit (s.answer 1))) with
        tDir := false, tAddr := s.cfg.pwrReg, tMb := false, tCnt := 1
        tByte := setMeasureBit s.cfg.measureBit (s.answer 1)
        pwrval := s.answer 1, hasPwr := true, status := .ok, nread := 0 } := by
  rw [activateWalk, hconfirm, if_neg Bool.false_ne_true, drain_acceptBus, leaveAll_readModifyWrite]
  simp only [leave, State.emit, State.finish, State.done, State.afterFrames, State.writeFrame, List.append_assoc]
  rfl

/-- ACTIVATE with its confirming read, whose byte `pwrval` keeps (41_sensor R163). -/
theorem drain_acceptBus_activate_confirmed (s : State) (hconfirm : s.cfg.actConfirm = true) :
    drain (s.acceptBus (.read s.cfg.pwrReg 1) (activateWalk s.cfg)) =
      { s.afterFrames 6 (s.readFrame 0 s.cfg.pwrReg 1 ++
          s.writeFrame 2 s.cfg.pwrReg (setMeasureBit s.cfg.measureBit (s.answer 1)) ++
          s.readFrame 4 s.cfg.pwrReg 1) with
        tDir := true, tAddr := s.cfg.pwrReg, tMb := false, tCnt := 1
        tByte := setMeasureBit s.cfg.measureBit (s.answer 1)
        pwrval := s.answer 5, hasPwr := true, status := .ok, nread := 0 } := by
  rw [activateWalk, hconfirm, if_pos rfl, ← List.append_assoc, drain_acceptBus, leaveAll_append,
    leaveAll_readModifyWrite, leaveAll_readWalk_pwrval]
  simp only [leave, State.emit, State.loadTx, State.finish, State.done, State.answer, busAnswer_drop,
    headerByte_eq_headerWord, List.drop_drop, List.append_assoc, Nat.add_assoc]
  rfl

/-! ### The sensor operations in an idle block -/

section
variable {s : State}

theorem execIdcheck_open (hb : s.busy = false) (hh : s.halted = false) :
    execIdcheck s = .next (State.checkIdentity
      { s.afterFrames 2 (s.readFrame 0 s.cfg.idReg 1) with
        busy := true, tDir := true, tAddr := s.cfg.idReg, tMb := false, tCnt := 1
        idval := s.answer 1, hasId := true }) := by
  rw [execIdcheck, beginIdcheck, complete_precheck_next hb hh, drain_acceptBus_readIdval, State.finish]

theorem execActivate_open (hb : s.busy = false) (hh : s.halted = false) :
    execActivate s = .next (drain (s.acceptBus (.read s.cfg.pwrReg 1) (activateWalk s.cfg))) :=
  complete_precheck_next hb hh _

/-- The burst has put the six bytes into PB when they are decoded. -/
theorem execSample_open (hb : s.busy = false) (hh : s.halted = false) :
    execSample s = .next
      { s.afterFrames 7 (s.readFrame 0 s.cfg.dataBase 6) with
        tDir := true, tAddr := s.cfg.dataBase, tMb := true, tCnt := 6
        pb := memWriteAll 0 ((List.range 6).map fun j => s.answer (1 + j)) s.pb
        x := s.answer 2 ++ s.answer 1, y := s.answer 4 ++ s.answer 3, z := s.answer 6 ++ s.answer 5
        hasSample := true, status := .ok, nread := 6 } := by
  have hbytes : ∀ k < 6, memRead k (memWriteAll 0 ((List.range 6).map fun j => s.answer (1 + j)) s.pb) =
      some (s.answer (1 + k)) := fun k hk => by rw [memRead_memWriteAll_range, if_pos hk]
  rw [execSample, beginSample, complete_precheck_next hb hh, sampleLen, drain_acceptBus_readPb _ _ (by decide),
    State.finish, decodeSample_of_bytes (f := fun k => s.answer (1 + k))]
  · rfl
  · exact hbytes

end

/-- Settles O16: the accepted operation is its read frame, and the comparison of the byte read decides how it ends. -/
theorem idcheckRule : Obligations.IdcheckRule := by
  refine ⟨fun w hw => congrArg Except.ok (decodeHost_idcheck hw), fun s hb => ⟨?same, ?differs, ?halted⟩⟩
  case same => exact fun hh heq => (execIdcheck_open hb hh).trans (congrArg _ (checkIdentity_of_eq heq))
  case differs => exact fun hh hne => (execIdcheck_open hb hh).trans (congrArg _ (checkIdentity_of_ne hne))
  case halted => exact fun hh => complete_precheck_halted hb hh _

/-- Settles O17: the accepted operation is its two or, with ACT_CONFIRM, three frames. -/
theorem activateRule : Obligations.ActivateRule := by
  refine ⟨fun w hw => congrArg Except.ok (decodeHost_activate hw), fun s hb => ⟨?plain, ?confirmed, ?halted⟩⟩
  case plain =>
    exact fun hh hconfirm => (execActivate_open hb hh).trans (congrArg _ (drain_acceptBus_activate s hconfirm))
  case confirmed =>
    exact fun hh hconfirm => (execActivate_open hb hh).trans (congrArg _ (drain_acceptBus_activate_confirmed s hconfirm))
  case halted => exact fun hh => complete_precheck_halted hb hh _

/-- Settles O18: the accepted operation is its burst, which writes PB[0..5], the bytes that are then decoded. -/
theorem sampleRule : Obligations.SampleRule := by
  refine ⟨fun w hw => congrArg Except.ok (decodeHost_sample hw), fun s hb => ⟨?ok, ?halted⟩⟩
  case ok => exact fun hh => ⟨_, execSample_open hb hh, memRead_memWriteAll_range _ _ _⟩
  case halted => exact fun hh => complete_precheck_halted hb hh _

end Sys2Proof.Machine
end

section
/-!
SUPPORT. The display operations SETUP and WRBYTE: the check of a display operation followed by its completion, and SETUP's
whole walk run to its end.
-/

namespace Sys2Proof.Machine

/-! ### The check and the completion of a display operation -/

section
variable {s : State}

/-- Outside Ready a display operation other than SETUP answers BadState (60_exceptions R245 step 4, 42_display R194). -/
theorem complete_whenReady_notReady (hb : s.busy = false) (hh : s.halted = false) (hp : s.pstate ≠ .ready)
    (body : Result) : complete (whenReady s body) = .next { s with status := .badState, nread := 0 } := by
  rw [whenReady, if_neg hp, complete_precheck_raise hb hh]

/-- An accepted display operation is SEND of its bytes, and then how it ends (42_display R183). -/
theorem complete_whenReady_acceptDisplay (hb : s.busy = false) (hh : s.halted = false) (hp : s.pstate = .ready)
    {bytes : List DisplayByte} (hbytes : bytes ≠ []) (how : Finish) :
    complete (whenReady s (.next (s.acceptDisplay bytes how))) =
      .next (({ s.afterSends bytes with busy := true } : State).finish how) := by
  rw [whenReady_open hb hh hp, complete, drain_acceptDisplay _ _ _ hbytes, ← finish_withWalk]
  rfl

end

/-! ### SETUP -/

/-- The bytes SETUP sends, as the statements name them (42_display R188, R189). -/
theorem setupBytes_eq (nibbleMode byteSetupHome : Bool) :
    setupBytes nibbleMode byteSetupHome =
      (if nibbleMode then [⟨0x02, .command⟩, ⟨0x28, .command⟩]
       else if byteSetupHome then [⟨0x02, .command⟩, ⟨0x38, .command⟩]
       else [⟨0x38, .command⟩]) ++ [⟨0x01, .command⟩, ⟨0x0F, .command⟩, ⟨0x06, .command⟩] := by
  cases nibbleMode <;> cases byteSetupHome <;> rfl

theorem setupBytes_ne_nil (nibbleMode byteSetupHome : Bool) : setupBytes nibbleMode byteSetupHome ≠ [] :=
  List.append_ne_nil_of_right_ne_nil _ (List.cons_ne_nil _ _)

/-- An operation in flight leaves the phases before its completion, and then ends. -/
theorem drain_of_walk {s : State} {w : List Micro} {how : Finish} (hb : s.busy = true)
    (hw : s.walk = w ++ [.finish how]) : drain s = { (leaveAll w s).finish how with walk := [] } := by
  rw [drain, if_pos hb, hw, runMicros_eq_leaveAll _ _ (by simp), leaveAll_append]
  rfl

/-- An accepted SETUP, run to its end: every byte is sent under the mode just written, over lines at 0 (42_display R188). -/
theorem drain_acceptSetup (s : State) (nibbleMode : Bool) :
    drain (s.acceptSetup nibbleMode) =
      { State.afterSends
          { s with trace := s.trace ++ [.initLines], nibble := nibbleMode, oe := true
                   rs := false, en := false, db := 0 }
          (setupBytes nibbleMode s.cfg.byteSetupHome) with
        cursor := true, pstate := .ready, status := .ok, nread := 0 } := by
  have hsends := leaveAll_sendsWalk (setupBytes nibbleMode s.cfg.byteSetupHome)
    (leave .initLines (s.acceptSetup nibbleMode)) (setupBytes_ne_nil _ _)
  rw [drain_of_walk (s := s.acceptSetup nibbleMode)
    (w := .initLines :: sendsWalk nibbleMode (setupBytes nibbleMode s.cfg.byteSetupHome)) rfl rfl, leaveAll_cons]
  exact congrArg (fun t : State => { t.finish .setup with walk := [] }) hsends

/-- Settles O22: an accepted SETUP is its whole walk; otherwise the check that fails answers. -/
theorem setupRule : Obligations.SetupRule := by
  refine ⟨fun w hw => congrArg Except.ok (decodeHost_setup hw), fun s nibbleMode hb => ⟨?ok, ?badState, ?halted⟩⟩
  case ok =>
    intro hh hfirst
    rw [← setupBytes_eq, ← drain_acceptSetup, exec, execSetup, beginSetup, if_pos hfirst]
    exact complete_precheck_next hb hh (s.acceptSetup nibbleMode)
  case badState =>
    intro hh hset
    rw [exec, execSetup, beginSetup, if_neg hset, complete_precheck_raise hb hh]
  case halted => exact fun hh => complete_precheck_halted hb hh _

/-! ### WRBYTE -/

/-- Settles O23: an accepted WRBYTE is SEND of its byte; otherwise the check that fails answers. -/
theorem wrbyteRule : Obligations.WrbyteRule := by
  refine ⟨fun w hw => congrArg Except.ok (decodeHost_wrbyte hw), fun s byte target hb => ⟨?ok, ?badState, ?halted⟩⟩
  case ok => exact fun hh hready => complete_whenReady_acceptDisplay hb hh hready (List.cons_ne_nil _ _) (.ok 0)
  case badState => exact fun hh hset => complete_whenReady_notReady hb hh hset _
  case halted => exact fun hh => complete_precheck_halted hb hh _

end Sys2Proof.Machine
end

section
/-!
SUPPORT. The transfer of display bytes (42_display R180, R183, R195): SEND of a byte leaves the transfer automaton between two
bytes and counts as one byte, bus events do not move it, and so every row adds only whole transfers.
-/

namespace Sys2Proof.Machine

/-! ### Events that are whole transfers -/

/-- The events are whole transfers of display bytes, with bus events between them: what follows them is judged as if it
stood alone. -/
def WholeTransfers (nibble : Bool) (events : List Event) : Prop :=
  ∀ rest, pulsed nibble .between (events ++ rest) = pulsed nibble .between rest

theorem wholeTransfers_nil (nibble : Bool) : WholeTransfers nibble [] := fun _ => rfl

theorem WholeTransfers.append {nibble : Bool} {a b : List Event} (ha : WholeTransfers nibble a)
    (hb : WholeTransfers nibble b) : WholeTransfers nibble (a ++ b) := fun rest => by rw [List.append_assoc, ha, hb]

theorem WholeTransfers.pulsed {nibble : Bool} {events : List Event} (h : WholeTransfers nibble events) :
    pulsed nibble .between events = true := by
  have hend := h []
  rwa [List.append_nil] at hend

/-- A settle delay is SHORT or LONG, never the delay of a pulse (42_display R185). -/
theorem settleClass_short_or_long (b : DisplayByte) : settleClass b = .short ∨ settleClass b = .long := by
  by_cases hslow : isSlow b
  · exact .inr (settleClass_slow hslow)
  · exact .inl (settleClass_other hslow)

theorem wholeTransfers_sendEvents (nibble : Bool) (b : DisplayByte) :
    WholeTransfers nibble (sendEvents nibble b) := fun rest => by
  rw [sendEvents]
  rcases settleClass_short_or_long b with hclass | hclass
  · rw [hclass]; cases nibble <;> rfl
  · rw [hclass]; cases nibble <;> rfl

theorem wholeTransfers_sends (nibble : Bool) (bytes : List DisplayByte) :
    WholeTransfers nibble (bytes.flatMap (sendEvents nibble)) := by
  induction bytes with
  | nil => exact wholeTransfers_nil nibble
  | cons b bytes ih => exact (wholeTransfers_sendEvents nibble b).append ih

/-! ### The transfers of a row -/

/-- `t` has the events of `s` and after them whole transfers. -/
def State.AddsTransfers (nibble : Bool) (s t : State) : Prop :=
  ∃ new, t.trace = s.trace ++ new ∧ WholeTransfers nibble new

section
variable {nibble : Bool}

theorem State.AddsTransfers.of_same_trace {s t : State} (h : t.trace = s.trace) : s.AddsTransfers nibble t :=
  ⟨[], h.trans (List.append_nil _).symm, wholeTransfers_nil nibble⟩

theorem State.AddsTransfers.trans {s t u : State} (h1 : s.AddsTransfers nibble t) (h2 : t.AddsTransfers nibble u) :
    s.AddsTransfers nibble u := by
  obtain ⟨a, hta, ha⟩ := h1
  obtain ⟨b, hub, hb⟩ := h2
  exact ⟨a ++ b, by rw [hub, hta, List.append_assoc], ha.append hb⟩

/-- A phase of the bus adds at most a bus event. -/
theorem leave_bus_addsTransfers {m : Micro} (hm : m.ofBus = true) (s : State) :
    s.AddsTransfers nibble (leave m s) := by
  cases m with
  | sel => exact ⟨_, rfl, fun _ => rfl⟩
  | hdr => exact ⟨_, rfl, fun _ => rfl⟩
  | wdata => exact ⟨_, rfl, fun _ => rfl⟩
  | rdata dest k => cases dest <;> exact ⟨_, rfl, fun _ => rfl⟩
  | desel next => exact ⟨_, leave_desel_trace next s, fun _ => rfl⟩
  | finish how => exact .of_same_trace (finish_trace how s)
  | _ => cases hm

theorem runMicros_bus_addsTransfers {w : List Micro} (hw : w.all Micro.ofBus = true) (s : State) :
    s.AddsTransfers nibble (runMicros w s) :=
  runMicros_keeps (P := s.AddsTransfers nibble)
    (fun _ u w hm h => h.trans (leave_bus_addsTransfers hm { u with walk := w })) hw (.of_same_trace rfl)

theorem busBegun_addsTransfers {s t : State} (h : BusBegun s t) : s.AddsTransfers nibble t := by
  cases h with
  | error code => exact .of_same_trace rfl
  | write addr byte => exact .of_same_trace rfl
  | readPb addr count how _ _ _ => exact .of_same_trace rfl
  | idcheck => exact .of_same_trace rfl
  | activate => exact .of_same_trace rfl
  | writeFrame addr =>
    exact runMicros_bus_addsTransfers (writeWalk_ofBus none) { s.loadTx (.write addr s.tByte) with rseq := .sel }
  | readFrame addr count _ =>
    exact runMicros_bus_addsTransfers (readWalk_ofBus .pb count.toNat none)
      { s.loadTx (.read addr count) with rseq := .sel }

theorem drain_busBegun_addsTransfers {s t : State} (hb : s.busy = false) (h : BusBegun s t) :
    s.AddsTransfers nibble (drain t) := by
  unfold drain
  split
  · next hbusy => exact (busBegun_addsTransfers h).trans (runMicros_bus_addsTransfers (busBegun_ofBus h hb hbusy) t)
  · exact busBegun_addsTransfers h

end

/-- The mode is written when SETUP is accepted, by no phase (10_state R47, 42_display R188). -/
theorem leave_nibble (m : Micro) (s : State) : (leave m s).nibble = s.nibble := by
  cases m with
  | desel next => cases next with
    | none => rfl
    | some tx => exact loadTx_nibble (s.emit (.cs false)) tx
  | rdata dest k => cases dest <;> rfl
  | finish how => rw [leave, finish_eq]
  | _ => rfl

theorem drain_nibble (s : State) : (drain s).nibble = s.nibble := by
  unfold drain
  split
  · exact runMicros_keeps (P := fun t => t.nibble = s.nibble) (phases := fun _ => true)
      (fun m u w _ h => (leave_nibble m { u with walk := w }).trans h) (List.all_eq_true.mpr fun _ _ => rfl) rfl
  · rfl

/-- A display row transfers its bytes whole, in the mode in force after it. -/
theorem drain_displayBegun_addsTransfers {s t : State} (h : DisplayBegun s t) :
    s.AddsTransfers (drain t).nibble (drain t) := by
  rw [drain_nibble]
  cases h with
  | error code => rw [drain_raise]; exact .of_same_trace rfl
  | setup nibbleMode _ =>
    exact ⟨_, trace_drain_acceptSetup s nibbleMode, fun rest => wholeTransfers_sends nibbleMode _ rest⟩
  | sends bytes how _ _ => exact ⟨_, trace_drain_acceptDisplay s bytes how, wholeTransfers_sends _ bytes⟩
  | sendAlone b _ => exact ⟨_, rfl, wholeTransfers_sends _ [b]⟩

/-- Settles O38: the events of a row are whole transfers, so the transfer automaton accepts them. -/
theorem pulsesAreWellFormed : Obligations.PulsesAreWellFormed := by
  intro i s t _ hb h
  obtain ⟨s1, hbegin, rfl⟩ := exec_next h
  have hadds : s.AddsTransfers (drain s1).nibble (drain s1) := by
    obtain ⟨-, hbus | hdisplay⟩ := beginOp_next hbegin
    · exact drain_busBegun_addsTransfers hb hbus
    · exact drain_displayBegun_addsTransfers hdisplay
  obtain ⟨new, hnew, hwhole⟩ := hadds
  exact ⟨new, hnew, hwhole.pulsed⟩

/-! ### The counts of transfers -/

/-- The events count as `n` bytes: one settle delay and one register-select event per byte, one pulse per data write
(42_display R195). -/
def CountAs (nibble : Bool) (n : Nat) (events : List Event) : Prop :=
  traceSettles events = n ∧ traceSelects events = n ∧ tracePulses events = if nibble then 2 * n else n

theorem countAs_nil (nibble : Bool) : CountAs nibble 0 [] := by cases nibble <;> exact ⟨rfl, rfl, rfl⟩

theorem CountAs.append {nibble : Bool} {m n : Nat} {a b : List Event} (ha : CountAs nibble m a)
    (hb : CountAs nibble n b) : CountAs nibble (m + n) (a ++ b) := by
  simp only [CountAs, traceSettles, traceSelects, tracePulses, List.count_append] at ha hb ⊢
  obtain ⟨hsettlesA, hselectsA, hpulsesA⟩ := ha
  obtain ⟨hsettlesB, hselectsB, hpulsesB⟩ := hb
  refine ⟨by omega, by omega, ?_⟩
  rw [hpulsesA, hpulsesB]
  split <;> omega

theorem countAs_sendEvents (nibble : Bool) (b : DisplayByte) : CountAs nibble 1 (sendEvents nibble b) := by
  have hselect : traceSelects [.rs (rsLevel b.target)] = 1 := by cases b.target <;> rfl
  have hsettle : traceSettles [.dly (settleClass b)] = 1 := by
    rcases settleClass_short_or_long b with hclass | hclass <;> rw [hclass] <;> rfl
  cases nibble with
  | false => exact ⟨hsettle, hselect, rfl⟩
  | true => exact ⟨hsettle, hselect, rfl⟩

theorem countAs_sends (nibble : Bool) (bytes : List DisplayByte) :
    CountAs nibble bytes.length (bytes.flatMap (sendEvents nibble)) := by
  induction bytes with
  | nil => exact countAs_nil nibble
  | cons b bytes ih =>
    rw [List.flatMap_cons, List.length_cons, Nat.add_comm]
    exact (countAs_sendEvents nibble b).append ih

/-- INIT_LINES counts as no byte. -/
theorem countAs_initLines_sends (nibble : Bool) (bytes : List DisplayByte) :
    CountAs nibble bytes.length (.initLines :: bytes.flatMap (sendEvents nibble)) := countAs_sends nibble bytes

/-! ### The display operations that end in OK -/

/-- `t` has the events of `s` and after them events that count as `n` bytes in the mode of `t`. -/
def State.AddsBytes (n : Nat) (s t : State) : Prop :=
  ∃ new, t.trace = s.trace ++ new ∧ CountAs t.nibble n new

theorem drain_acceptDisplay_addsBytes (s : State) (bytes : List DisplayByte) (how : Finish) :
    s.AddsBytes bytes.length (drain (s.acceptDisplay bytes how)) := by
  refine ⟨_, trace_drain_acceptDisplay s bytes how, ?_⟩
  rw [drain_nibble]
  exact countAs_sends s.nibble bytes

theorem drain_acceptSetup_addsBytes (s : State) (nibbleMode : Bool) :
    s.AddsBytes (setupBytes nibbleMode s.cfg.byteSetupHome).length (drain (s.acceptSetup nibbleMode)) := by
  refine ⟨_, trace_drain_acceptSetup s nibbleMode, ?_⟩
  rw [drain_nibble]
  exact countAs_initLines_sends nibbleMode _

theorem length_setupBytes (nibbleMode byteSetupHome : Bool) :
    (setupBytes nibbleMode byteSetupHome).length = if nibbleMode || byteSetupHome then 5 else 4 := by
  cases nibbleMode <;> cases byteSetupHome <;> rfl

/-- A display operation that ends in OK has passed its checks. -/
theorem complete_whenReady_ok {s t : State} {body : Result} (h : complete (whenReady s body) = .next t)
    (hok : t.status = .ok) : ∃ s1, body = .next s1 ∧ t = drain s1 := by
  obtain ⟨s1, hs1, rfl⟩ := complete_next h
  obtain ⟨-, ⟨-, rfl⟩ | ⟨-, -, rfl⟩ | ⟨-, -, hbody⟩⟩ := whenReady_next hs1
  · rw [drain_raise] at hok; cases hok
  · rw [drain_raise] at hok; cases hok
  · exact ⟨s1, hbody, rfl⟩

section
variable {s t : State} (hok : t.status = .ok)
include hok

theorem execSetup_addsBytes {nibbleMode : Bool} (h : execSetup nibbleMode s = .next t) :
    s.AddsBytes (if nibbleMode || s.cfg.byteSetupHome then 5 else 4) t := by
  have ht := complete_precheck_ok h hok
  split at ht
  · rw [ht, ← length_setupBytes]
    exact drain_acceptSetup_addsBytes s nibbleMode
  · rw [ht, drain_raise] at hok; cases hok

/-- WRBYTE, SHOWCUR and HIDECUR, which have no operand or payload to check. -/
theorem whenReady_acceptDisplay_addsBytes {bytes : List DisplayByte} {how : Finish}
    (h : complete (whenReady s (.next (s.acceptDisplay bytes how))) = .next t) : s.AddsBytes bytes.length t := by
  obtain ⟨s1, hs1, rfl⟩ := complete_whenReady_ok h hok
  cases hs1
  exact drain_acceptDisplay_addsBytes s bytes how

theorem execMovecur_addsBytes {row col : Nat} (h : execMovecur row col s = .next t) : s.AddsBytes 1 t := by
  obtain ⟨s1, hs1, rfl⟩ := complete_whenReady_ok h hok
  cases hs1
  split at hok
  · rw [drain_raise] at hok; cases hok
  · next hin =>
    rw [if_neg hin]
    split at hok
    · rw [drain_raise] at hok; cases hok
    · exact drain_acceptDisplay_addsBytes s _ _

theorem execWrstr_addsBytes (h : execWrstr s = .next t) : s.AddsBytes s.cfg.cols t := by
  obtain ⟨s1, hs1, rfl⟩ := complete_whenReady_ok h hok
  obtain ⟨hpayload, hs1⟩ := withPayload_next hs1
  cases hs1
  have hbytes := drain_acceptDisplay_addsBytes s (dataBytes (memBytes s.pb 0 s.cfg.cols)) (.ok 0)
  rwa [length_dataBytes_memBytes hpayload] at hbytes

theorem execLdglyph_addsBytes {slot : Nat} (h : execLdglyph slot s = .next t) : s.AddsBytes 9 t := by
  obtain ⟨s1, hs1, rfl⟩ := complete_whenReady_ok h hok
  split at hs1
  · cases hs1; rw [drain_raise] at hok; cases hok
  · obtain ⟨hpayload, hs1⟩ := withPayload_next hs1
    cases hs1
    have hbytes := drain_acceptDisplay_addsBytes s
      (⟨glyphCommand slot, .command⟩ :: dataBytes (memBytes s.pb 0 glyphHeight)) (.ok 0)
    rwa [List.length_cons, length_dataBytes_memBytes hpayload] at hbytes

end

/-- Settles O43: the events of an operation that ends in OK are SEND of its bytes, each of which counts once. -/
theorem pulseAndByteCounts : Obligations.PulseAndByteCounts := by
  intro i s t new _ _ h hok hnew n hrow
  have hadds : s.AddsBytes n t := by
    rcases hrow with ⟨rfl, rfl⟩ | ⟨⟨slot, rfl⟩, rfl⟩ | ⟨m, rfl, rfl⟩ | ⟨⟨row, col, rfl⟩, rfl⟩ | ⟨⟨b, g, rfl⟩, rfl⟩ |
      ⟨rfl | rfl, rfl⟩
    · exact execWrstr_addsBytes hok h
    · exact execLdglyph_addsBytes hok h
    · exact execSetup_addsBytes hok h
    · exact execMovecur_addsBytes hok h
    · exact whenReady_acceptDisplay_addsBytes hok h
    · exact whenReady_acceptDisplay_addsBytes hok h
    · exact whenReady_acceptDisplay_addsBytes hok h
  obtain ⟨new', hnew', hcounts⟩ := hadds
  cases List.append_cancel_left (hnew.symm.trans hnew')
  exact hcounts

end Sys2Proof.Machine
end

section
/-!
SUPPORT. The display commands MOVECUR, WRSTR, LDGLYPH, SHOWCUR and HIDECUR: the payload taken from PB and the command
bytes they compute.
-/

namespace Sys2Proof.Machine

/-! ### The payload -/

section
variable {s : State} {n : Nat}

/-- The payload taken is the bytes that PB holds at the first indexes, in order. -/
theorem withPayload_of_pbAt {bytes : List Byte} (hlen : bytes.length = n) (h : ∀ k, k < n → s.pbAt k = bytes[k]?)
    (body : List Byte → Result) : withPayload s n body = body bytes := by
  have hpayload : firstMissing s.pb 0 n = none := firstMissing_none.mpr fun k _ hk hnone => by
    rw [Nat.zero_add] at hk
    rw [← State.pbAt, h k hk, List.getElem?_eq_none_iff] at hnone
    omega
  have hbytes : memBytes s.pb 0 n = bytes := List.ext_getElem? fun k => by
    rcases Nat.lt_or_ge k n with hk | hk
    · rw [← memRead_of_memBytes hpayload hk, Nat.zero_add]
      exact h k hk
    · rw [List.getElem?_eq_none (by rwa [length_memBytes hpayload]), List.getElem?_eq_none (by rwa [hlen])]
  rw [withPayload, hpayload, hbytes]

/-- A payload byte with no value is found, whatever would be done with the payload (60_exceptions R245 step 6). -/
theorem withPayload_of_missing (h : ∃ k, k < n ∧ s.pbAt k = none) :
    ∃ k, k < n ∧ s.pbAt k = none ∧ ∀ body, withPayload s n body = .fault (.pbNoValue k) := by
  obtain ⟨j, hj, hnone⟩ := h
  cases hfirst : firstMissing s.pb 0 n with
  | none => exact absurd hnone (firstMissing_none.mp hfirst j (Nat.zero_le _) (by rwa [Nat.zero_add]))
  | some k =>
    obtain ⟨-, hk, hread⟩ := firstMissing_some hfirst
    exact ⟨k, by rwa [Nat.zero_add] at hk, hread, fun body => by rw [withPayload, hfirst]⟩

theorem dataBytes_ne_nil {bytes : List Byte} (hlen : bytes.length = n) (hpos : 1 ≤ n) : dataBytes bytes ≠ [] :=
  List.ne_nil_of_length_pos (by rwa [dataBytes, List.length_map, hlen])

end

/-! ### The errors of an operation on a ready display -/

section
variable {s : State} (hb : s.busy = false) (hh : s.halted = false) (hready : s.pstate = .ready)
include hb hh hready

/-- An operand check that fails on a ready display answers its error and does nothing else (60_exceptions R247). -/
theorem complete_whenReady_raise (code : Status) :
    complete (whenReady s (.next (s.raise code))) = .next { s with status := code, nread := 0 } := by
  rw [whenReady_open hb hh hready, complete_raise hb]

/-- A payload byte with no value faults before any event (decision D27, log 6). -/
theorem complete_whenReady_missing {n : Nat} (h : ∃ k, k < n ∧ s.pbAt k = none) :
    ∃ k, k < n ∧ s.pbAt k = none ∧
      ∀ body, complete (whenReady s (withPayload s n body)) = .fault (.pbNoValue k) := by
  obtain ⟨k, hk, hnone, hfault⟩ := withPayload_of_missing h
  exact ⟨k, hk, hnone, fun body => by rw [whenReady_open hb hh hready, hfault, complete]⟩

end

/-! ### The command bytes -/

/-- A row's base leaves room for every column of the row (00_scope R7, 43_display R211). -/
theorem rowBase_add_cols_le {c : Params} (hok : c.ok = true) {row : Nat} (hrow : row < c.rows) {base : Byte}
    (hbase : rowBase row = some base) : base.toNat + c.cols ≤ 0x100 := by
  simp only [Params.ok, Bool.and_eq_true, List.all_eq_true, decide_eq_true_eq] at hok
  obtain ⟨⟨⟨⟨⟨⟨-, hroom⟩, -⟩, -⟩, -⟩, -⟩, -⟩ := hok
  refine hroom base (List.mem_of_getElem? (i := row) ?_)
  rwa [List.getElem?_take_of_lt hrow]

theorem toNat_cursorCommand {base : Byte} {col : Nat} (h : base.toNat + col < 0x100) :
    (cursorCommand base col).toNat = base.toNat + col := by
  rw [cursorCommand, BitVec.toNat_add, BitVec.toNat_ofNat, Nat.add_mod_mod, Nat.mod_eq_of_lt h]

/-- The glyph address as an 8-bit sum and product (30_encoding R113, R121 (d)). -/
theorem glyphCommand_eq_add_mul (slot : Nat) : glyphCommand slot = 0x40 + 8 * BitVec.ofNat 8 slot :=
  congrArg (cmdGlyphBase + ·) (BitVec.ofNat_mul _ _)

/-! ### MOVECUR -/

theorem execMovecur_inRange {s : State} (hb : s.busy = false) (hh : s.halted = false) (hready : s.pstate = .ready)
    {row col : Nat} (hrow : row < s.cfg.rows) (hcol : col < s.cfg.cols) {base : Byte}
    (hbase : rowBase row = some base) :
    execMovecur row col s =
      .next { s.afterSends [⟨cursorCommand base col, .command⟩] with status := .ok, nread := 0 } := by
  have hin : ¬ positionBad s.cfg.rows s.cfg.cols row col = true := by rw [positionBad_iff]; omega
  rw [execMovecur, beginMovecur, if_neg hin, hbase]
  exact complete_whenReady_acceptDisplay hb hh hready (List.cons_ne_nil _ _) (.ok 0)

/-- Settles O24: an admissible row has a base, and the command is SEND of base plus column. -/
theorem movecurRule : Obligations.MovecurRule := by
  refine ⟨fun w hw => congrArg Except.ok (decodeHost_movecur hw),
    fun s row col hb hok => ⟨?inRange, ?outOfRange, ?badState, ?halted⟩⟩
  case inRange =>
    intro hh hready hrow hcol
    obtain ⟨base, hbase⟩ := rowBase_of_ok hok hrow
    have hroom := rowBase_add_cols_le hok hrow hbase
    exact ⟨base, hbase, toNat_cursorCommand (by omega), execMovecur_inRange hb hh hready hrow hcol hbase⟩
  case outOfRange =>
    intro hh hready hout
    rw [exec, execMovecur, beginMovecur, if_pos ((positionBad_iff _ _ _ _).mpr hout),
      complete_whenReady_raise hb hh hready]
  case badState => exact fun hh hset => complete_whenReady_notReady hb hh hset _
  case halted => exact fun hh => complete_precheck_halted hb hh _

/-! ### WRSTR -/

/-- Settles O25: the payload is taken whole and sent as data, or its first byte with no value faults. -/
theorem wrstrRule : Obligations.WrstrRule := by
  refine ⟨fun w hw => congrArg Except.ok (decodeHost_wrstr hw),
    fun s bytes hb hcols => ⟨?ok, ?noValue, ?badState, ?halted⟩⟩
  case ok =>
    intro hh hready hlen hbytes
    rw [exec, execWrstr, beginWrstr, withPayload_of_pbAt hlen hbytes]
    exact complete_whenReady_acceptDisplay hb hh hready (dataBytes_ne_nil hlen hcols) (.ok 0)
  case noValue =>
    intro hh hready hmissing
    obtain ⟨k, hk, hnone, hfault⟩ := complete_whenReady_missing hb hh hready hmissing
    exact ⟨k, hk, hnone, hfault _⟩
  case badState => exact fun hh hset => complete_whenReady_notReady hb hh hset _
  case halted => exact fun hh => complete_precheck_halted hb hh _

/-! ### LDGLYPH -/

theorem beginLdglyph_of_slot {slot : Nat} (hslot : slot < 8) (s : State) :
    beginLdglyph slot s = whenReady s (withPayload s 8 fun bytes =>
      .next (s.acceptDisplay (⟨glyphCommand slot, .command⟩ :: dataBytes bytes) (.ok 0))) :=
  congrArg (whenReady s) (if_neg (by rw [slotBad_iff]; omega))

/-- Settles O26: for a slot below 8, the glyph address and then the payload, or the payload's fault. -/
theorem ldglyphRule : Obligations.LdglyphRule := by
  refine ⟨fun w hw => congrArg Except.ok (decodeHost_ldglyph hw),
    fun s slot glyph hb => ⟨?ok, ?outOfRange, ?noValue, ?badState, ?halted⟩⟩
  case ok =>
    intro hh hready hslot hlen hglyph
    rw [exec, execLdglyph, beginLdglyph_of_slot hslot, withPayload_of_pbAt hlen hglyph, ← glyphCommand_eq_add_mul]
    exact complete_whenReady_acceptDisplay hb hh hready (List.cons_ne_nil _ _) (.ok 0)
  case outOfRange =>
    intro hh hready hslot
    rw [exec, execLdglyph, beginLdglyph, if_pos ((slotBad_iff slot).mpr hslot), complete_whenReady_raise hb hh hready]
  case noValue =>
    intro hh hready hslot hmissing
    obtain ⟨k, hk, hnone, hfault⟩ := complete_whenReady_missing hb hh hready hmissing
    refine ⟨k, hk, hnone, ?_⟩
    rw [exec, execLdglyph, beginLdglyph_of_slot hslot, hfault]
  case badState => exact fun hh hset => complete_whenReady_notReady hb hh hset _
  case halted => exact fun hh => complete_precheck_halted hb hh _

/-! ### SHOWCUR and HIDECUR -/

/-- Settles O27: each is SEND of its constant, and ends by writing cursor; otherwise the check that fails answers. -/
theorem cursorVisibilityRule : Obligations.CursorVisibilityRule := by
  refine ⟨fun w => ⟨fun hw => congrArg Except.ok (decodeHost_showcur hw),
    fun hw => congrArg Except.ok (decodeHost_hidecur hw)⟩, fun s hb => ⟨?ok, ?badState, ?halted⟩⟩
  case ok =>
    have hends (hh : s.halted = false) (hready : s.pstate = .ready) (value : Byte) :=
      complete_whenReady_acceptDisplay hb hh hready (List.cons_ne_nil (⟨value, .command⟩ : DisplayByte) [])
    exact fun hh hready => ⟨hends hh hready _ .showCursor, hends hh hready _ .hideCursor⟩
  case badState =>
    exact fun hh hset => ⟨complete_whenReady_notReady hb hh hset _, complete_whenReady_notReady hb hh hset _⟩
  case halted => exact fun hh => ⟨complete_precheck_halted hb hh _, complete_precheck_halted hb hh _⟩

end Sys2Proof.Machine
end

section
/-!
SUPPORT. The checks of the rows and their order: what each of them answers in a busy and in a halted block, and that an operation
errs before its first event or is accepted, and an accepted one ends in OK or IdentityMismatch.
-/

namespace Sys2Proof.Machine

/-! ### The check a row opens with -/

section
variable {i : Instr}

/-- The twelve operations open with one check (60_exceptions R245 steps 1 and 3). -/
theorem beginOp_operation (hi : isOperation i = true) (s : State) : ∃ body, beginOp i s = precheck s body := by
  cases i with
  | wrreg address byte | rdreg address count | idcheck | activate | sample | setup nibbleMode | wrbyte byte target
  | movecur row col | wrstr | ldglyph slot | showcur | hidecur => exact ⟨_, rfl⟩
  | _ => cases hi

/-- The display operations other than SETUP go on to check the display state (60_exceptions R245 step 4). -/
theorem beginOp_needsReady (hi : needsReady i = true) (s : State) : ∃ body, beginOp i s = whenReady s body := by
  cases i with
  | wrbyte byte target | movecur row col | wrstr | ldglyph slot | showcur | hidecur => exact ⟨_, rfl⟩
  | _ => cases hi

end

/-! ### A busy block -/

section
variable {s : State} (hb : s.busy = true)
include hb

theorem precheck_busy (body : Result) : precheck s body = .refused .busy := if_pos hb

theorem illegalOperation_busy : illegalOperation s = .refused .busy := if_pos hb

theorem internalCheck_busy (body : Result) : internalCheck s body = .refused .busy := if_pos hb

/-- No row has a step in a busy block; the reserved header has none in any. -/
theorem beginOp_busy (i : Instr) : ∃ r, beginOp i s = .refused r ∧ (isOperation i = true → r = .busy) := by
  by_cases hi : isOperation i = true
  · obtain ⟨body, hbegin⟩ := beginOp_operation hi s
    exact ⟨.busy, hbegin.trans (precheck_busy hb body), fun _ => rfl⟩
  · obtain ⟨body, hbegin⟩ | hbegin | ⟨body, hbegin⟩ | hbegin := beginOp_opens i s
    · exact ⟨_, hbegin.trans (precheck_busy hb body), fun h => absurd h hi⟩
    · exact ⟨_, hbegin.trans (illegalOperation_busy hb), fun h => absurd h hi⟩
    · exact ⟨_, hbegin.trans (internalCheck_busy hb body), fun h => absurd h hi⟩
    · exact ⟨_, hbegin, fun h => absurd h hi⟩

theorem exec_busy (i : Instr) : ∃ r, exec i s = .refused r ∧ (isOperation i = true → r = .busy) := by
  obtain ⟨r, hbegin, hr⟩ := beginOp_busy hb i
  exact ⟨r, by rw [exec_eq_complete_beginOp, hbegin, complete], hr⟩

end

/-- Settles O9: every row opens with a check that refuses in a busy block, and so does the host's write of PB. -/
theorem busyHasNoMove : Obligations.BusyHasNoMove :=
  fun _ hb => ⟨exec_busy hb, beginOp_busy hb, fun _ _ => if_pos hb⟩

/-! ### A halted block and a display that is not ready -/

/-- Settles O32: the check an operation opens with answers before its body, and that body before the operands and the payload. -/
theorem checkOrder : Obligations.CheckOrder := by
  intro i s hb
  rw [exec_eq_complete_beginOp]
  refine ⟨fun hi hh => ?halted, fun hi hh hp => ?badState⟩
  case halted =>
    obtain ⟨body, hbegin⟩ := beginOp_operation hi s
    rw [hbegin, complete_precheck_halted hb hh]
  case badState =>
    obtain ⟨body, hbegin⟩ := beginOp_needsReady hi s
    rw [hbegin, complete_whenReady_notReady hb hh hp]

theorem internalCheck_halted {s : State} (hb : s.busy = false) (hh : s.halted = true) (body : Result) :
    internalCheck s body = .refused .blockHalted := by
  rw [internalCheck, if_neg (by simp [hb]), if_pos hh]

/-- Settles O29: the display byte rows and the three emitted header rows open with the check of an internal row. -/
theorem internalRowsWhenHalted : Obligations.InternalRowsWhenHalted := by
  intro i s hb hh
  refine ⟨fun hi => ?displayByte, fun addr hi => ?header⟩
  case displayByte =>
    obtain ⟨b, hrow⟩ := exec_displayByteRow hi
    exact (hrow s).trans (internalCheck_halted hb hh _)
  case header =>
    obtain rfl | rfl | rfl := hi
    · exact internalCheck_halted hb hh _
    · exact internalCheck_halted hb hh _
    · exact internalCheck_halted hb hh _

/-! ### An operation errs before its first event, or is accepted -/

/-- An operation is in flight, with phases to leave that end in its completion (10_state R30; log 9). -/
def State.Accepted (t : State) : Prop := t.busy = true ∧ ∃ w how, t.walk = w ++ [.finish how]

/-- The only next states a result gives are an error raised in `s` (60_exceptions R247) and an accepted operation. -/
def ErrsOrAccepts (s : State) (r : Result) : Prop := ∀ t, r = .next t → (∃ code, t = s.raise code) ∨ t.Accepted

section
variable {s : State}

theorem errsOrAccepts_raise (code : Status) : ErrsOrAccepts s (.next (s.raise code)) := by
  rintro _ ⟨⟩
  exact .inl ⟨code, rfl⟩

theorem errsOrAccepts_acceptBus (tx : Tx) (w : List Micro) (how : Finish) :
    ErrsOrAccepts s (.next (s.acceptBus tx (w ++ [.finish how]))) := by
  rintro _ ⟨⟩
  exact .inr ⟨rfl, w, how, rfl⟩

theorem errsOrAccepts_acceptDisplay (bytes : List DisplayByte) (how : Finish) :
    ErrsOrAccepts s (.next (s.acceptDisplay bytes how)) := by
  rintro _ ⟨⟩
  exact .inr ⟨rfl, sendsWalk s.nibble bytes, how, rfl⟩

theorem errsOrAccepts_acceptSetup (nibbleMode : Bool) : ErrsOrAccepts s (.next (s.acceptSetup nibbleMode)) := by
  rintro _ ⟨⟩
  exact .inr ⟨rfl, .initLines :: sendsWalk nibbleMode _, .setup, rfl⟩

theorem errsOrAccepts_precheck {body : Result} (h : ErrsOrAccepts s body) : ErrsOrAccepts s (precheck s body) := by
  intro t ht
  obtain ⟨-, ⟨-, rfl⟩ | ⟨-, hbody⟩⟩ := precheck_next ht
  · exact .inl ⟨_, rfl⟩
  · exact h t hbody

theorem errsOrAccepts_whenReady {body : Result} (h : ErrsOrAccepts s body) : ErrsOrAccepts s (whenReady s body) := by
  refine errsOrAccepts_precheck ?_
  split
  · exact h
  · exact errsOrAccepts_raise _

theorem errsOrAccepts_withPayload {n : Nat} {body : List Byte → Result} (h : ∀ bytes, ErrsOrAccepts s (body bytes)) :
    ErrsOrAccepts s (withPayload s n body) := fun t ht => h _ t (withPayload_next ht).2

theorem beginWrreg_errsOrAccepts (address : Nat) (byte : Byte) : ErrsOrAccepts s (beginWrreg address byte s) := by
  refine errsOrAccepts_precheck ?_
  split
  · exact errsOrAccepts_raise _
  · exact errsOrAccepts_acceptBus _ _ _

theorem beginRdreg_errsOrAccepts (address count : Nat) : ErrsOrAccepts s (beginRdreg address count s) := by
  refine errsOrAccepts_precheck ?_
  split
  · exact errsOrAccepts_raise _
  · split
    · exact errsOrAccepts_raise _
    · exact errsOrAccepts_acceptBus _ _ _

theorem beginSetup_errsOrAccepts (nibbleMode : Bool) : ErrsOrAccepts s (beginSetup nibbleMode s) := by
  refine errsOrAccepts_precheck ?_
  split
  · exact errsOrAccepts_acceptSetup nibbleMode
  · exact errsOrAccepts_raise _

theorem beginMovecur_errsOrAccepts (row col : Nat) : ErrsOrAccepts s (beginMovecur row col s) := by
  refine errsOrAccepts_whenReady ?_
  split
  · exact errsOrAccepts_raise _
  · split
    · exact errsOrAccepts_raise _
    · exact errsOrAccepts_acceptDisplay _ _

theorem beginLdglyph_errsOrAccepts (slot : Nat) : ErrsOrAccepts s (beginLdglyph slot s) := by
  refine errsOrAccepts_whenReady ?_
  split
  · exact errsOrAccepts_raise _
  · exact errsOrAccepts_withPayload fun _ => errsOrAccepts_acceptDisplay _ _

theorem beginOp_errsOrAccepts {i : Instr} (hi : isOperation i = true) (s : State) : ErrsOrAccepts s (beginOp i s) := by
  cases i with
  | wrreg address byte => exact beginWrreg_errsOrAccepts address byte
  | rdreg address count => exact beginRdreg_errsOrAccepts address count
  | idcheck => exact errsOrAccepts_precheck (errsOrAccepts_acceptBus _ _ _)
  | activate => exact errsOrAccepts_precheck (errsOrAccepts_acceptBus _ _ _)
  | sample => exact errsOrAccepts_precheck (errsOrAccepts_acceptBus _ _ _)
  | setup nibbleMode => exact beginSetup_errsOrAccepts nibbleMode
  | wrbyte byte target => exact errsOrAccepts_whenReady (errsOrAccepts_acceptDisplay _ _)
  | movecur row col => exact beginMovecur_errsOrAccepts row col
  | wrstr => exact errsOrAccepts_whenReady (errsOrAccepts_withPayload fun _ => errsOrAccepts_acceptDisplay _ _)
  | ldglyph slot => exact beginLdglyph_errsOrAccepts slot
  | showcur => exact errsOrAccepts_whenReady (errsOrAccepts_acceptDisplay _ _)
  | hidecur => exact errsOrAccepts_whenReady (errsOrAccepts_acceptDisplay _ _)
  | _ => cases hi

end

/-! ### How an accepted operation ends -/

theorem finish_status (how : Finish) (s : State) :
    (s.finish how).status = .ok ∨ (s.finish how).status = .identityMismatch := by
  cases how with
  | identity =>
    rw [State.finish, State.checkIdentity]
    split
    · exact .inr rfl
    · exact .inl rfl
  | _ => exact .inl rfl

/-- Past its acceptance no operation ends in an error but IDCHECK's (60_exceptions R248). -/
theorem State.Accepted.drain_status {s : State} (h : s.Accepted) :
    (drain s).status = .ok ∨ (drain s).status = .identityMismatch := by
  obtain ⟨hb, w, how, hw⟩ := h
  rw [drain_of_walk hb hw]
  exact finish_status how (leaveAll w s)

/-- Settles O31: an error other than IDCHECK's is raised before the operation is accepted, and changes `status` and `nread` only. -/
theorem errorsLeaveTheHardwareUntouched : Obligations.ErrorsLeaveTheHardwareUntouched := by
  intro i s t hi h hok hid
  obtain ⟨s1, hbegin, rfl⟩ := exec_next h
  obtain ⟨code, rfl⟩ | haccepted := beginOp_errsOrAccepts hi s s1 hbegin
  · rw [drain_raise]
    exact raise_of_idle (beginOp_next hbegin).1 code
  · exact absurd haccepted.drain_status (not_or.mpr ⟨hok, hid⟩)

end Sys2Proof.Machine
end

section
/-!
SUPPORT. Reset: the parameters it starts from are admissible, what the host reads right after it, and the reset taken as a
move.
-/

namespace Sys2Proof

theorem Params.illustrative_ok : Params.illustrative.ok = true := by decide

/-- The fallback makes the parameters admissible whatever the platform chose (00_scope R7; log 4). -/
theorem Config.params_ok : Config.params.ok = true := by
  unfold Config.params
  split
  · next h => exact h
  · exact Params.illustrative_ok

namespace Machine

/-! ### What the host reads right after reset -/

theorem State.pbAt_of_empty {s : State} (h : s.pb = []) (i : Nat) : s.pbAt i = none := by
  rw [State.pbAt, h, memRead_nil]

theorem resultRead_noValue {s : State} (hb : s.busy = false) (v : Int) : resultRead s false v = .noValue := by
  rw [resultRead, hb]; rfl

/-- The registers with "no value" in R281: the results of the sensor have none yet, `nibble` and `cursor` none before SETUP. -/
theorem reset_hostRead_noValue {r : HostReg}
    (hr : r = .x ∨ r = .y ∨ r = .z ∨ r = .idval ∨ r = .pwrval ∨ r = .nibble ∨ r = .cursor) :
    State.reset.hostRead r = .noValue := by
  obtain rfl | rfl | rfl | rfl | rfl | rfl | rfl := hr
  iterate 5 exact resultRead_noValue rfl _
  · rfl
  · rfl

/-- Settles O10: the fields as `State.reset` gives them, and the reads of an empty PB and of registers without a value. -/
theorem resetValues : Obligations.ResetValues :=
  ⟨rfl, rfl, rfl, rfl, State.pbAt_of_empty rfl, rfl, rfl, rfl, rfl, rfl, rfl, fun _ => reset_hostRead_noValue⟩

/-! ### Reset as a move -/

/-- Settles O11: the step takes the reset off the inputs, and `afterReset` looks at nothing an operation in flight holds. -/
theorem resetAtAnyTime : Obligations.ResetAtAnyTime := by
  intro s rest hin
  calc step s
    _ = takeMove .reset { s with inputs := rest } := step_of_inputs hin
    _ = .next ({ s with inputs := rest } : State).afterReset := rfl

/-- Reset changes nothing in the state right after reset. -/
theorem afterReset_reset : State.reset.afterReset = State.reset := rfl

/-- Settles O12: reset meets the invariant with admissible parameters, and those right after reset are. -/
theorem resetMeetsTheInvariant : Obligations.ResetMeetsTheInvariant := by
  have h : State.reset.afterReset.Inv := afterReset_inv Config.params_ok
  rwa [afterReset_reset] at h

end Machine
end Sys2Proof
end
